-- ==== Sys2Proof/Word.lean ====
section
/-! DEFINITION. The bit-vector widths of the block and its two smallest data types.
spec/00_scope.md R6 (constants), R11 (numbers and bits), R16 (pixel, wire mode). -/

namespace Sys2Proof

/-- One colour channel, `CHW = 8` bits (R6). -/
abbrev Channel := BitVec 8

/-- A 25-bit glyph pattern, bit `i` (weight `2^i`) is pixel `i` (R6, R11, R81). -/
abbrev Pattern := BitVec 25

/-- One request word, 40 bits (R62). -/
abbrev Request := BitVec 40

/-- One packed output word, `WORDW = 32` bits (R6). -/
abbrev PackedWord := BitVec 32

/-- A timestamp in milliseconds, `TSW = 64` bits (R6, R15). -/
abbrev Timestamp := BitVec 64

/-- A Pixel: three unsigned 8-bit channels, stored red, green, blue (R16, R20). -/
structure Pixel where
  /-- red -/
  r : Channel
  /-- green -/
  g : Channel
  /-- blue -/
  b : Channel
deriving DecidableEq, Repr, Inhabited

/-- The Pixel Buffer's contents: exactly `NPIX = 25` pixels, pixel 0 first (R6, R20). -/
abbrev PixelBuffer := Vector Pixel 25

/-- The wire mode (R7, R8): packed-word mode `W` or byte-triplet mode `B`. -/
inductive WireMode where
  /-- mode `W`: one 32-bit word per pixel (R41) -/
  | packedWord
  /-- mode `B`: three 8-bit units per pixel (R42) -/
  | byteTriplet
deriving DecidableEq, Repr, Inhabited

end Sys2Proof
end

