-- ==== Sys2Proof/Config.lean ====
section
/-! DEFINITION. What a build of the block fixes, and what the environment leaves free.
spec/00_scope.md R7, R8, spec/10_state.md R27 (configuration); spec/60_exceptions.md R138 (environment). -/

namespace Sys2Proof

/-- The configuration record `cfg` (R7): fixed for one build, written by no operation (R8, R27). -/
structure Config where
  /-- `cfg.GLYPH[0..9]`, the contents of the glyph ROM (R81) -/
  glyph : Vector Pattern 10
  /-- `cfg.INTENSITY`, used by the render of an accepted event (R92) -/
  intensity : Channel
  /-- `cfg.WIRE_MODE`, used by the flush of an accepted event (R8) -/
  wireMode : WireMode
deriving DecidableEq, Repr, Inhabited

/-- The values of all input signals in one step: `rst` (R150), `req_valid` with `req` (R60),
`now` (R69), `out_ready` (R68). -/
structure PortInputs where
  /-- `rst = 1` -/
  rst : Bool
  /-- `some req` when `req_valid = 1` -/
  req : Option Request
  /-- `now[63:0]` -/
  now : Timestamp
  /-- `out_ready = 1` -/
  outReady : Bool
deriving DecidableEq, Repr, Inhabited

/-- The build's configuration: the spec gives it no value (R7, OPEN, decisions D21 and D22), so it has
none here. DESIGN CHOICE (assumption 2), safe. -/
opaque Config.build : Config

/-- The environment's free draws: the input signals of the `n`-th step whose inputs the state does not
list (R128, R129, R138; U12, U13, U17). No value of it can be proved. DESIGN CHOICE (assumption 1), safe. -/
opaque Config.freePorts : Nat → PortInputs

end Sys2Proof
end

