-- ==== Sys2Proof/Syntax.lean ====
section
/-! DEFINITION. The operation set PXS-1 as syntax: one constructor per row of the opcode map.
spec/30_encoding.md R63 (operands), R64 (rows). -/

namespace Sys2Proof

/-- The source tag of an event: which button (R63, field `src`; R105). -/
inductive Source where
  /-- the increment button, `src = 0` -/
  | increment
  /-- the decrement button, `src = 1` -/
  | decrement
deriving DecidableEq, Repr

/-- One operation of PXS-1 with its operands, each of the width of its request field (R63, R64). -/
inductive Instr where
  /-- `LOOKUP d` (R80) -/
  | lookup (d : BitVec 4)
  /-- `CLEAR` (R85) -/
  | clear
  /-- `SETPX idx, r, g, b` (R86) -/
  | setpx (idx : BitVec 5) (r g b : Channel)
  /-- `RENDER pattern, inten` (R90) -/
  | render (pattern : Pattern) (inten : Channel)
  /-- `FLUSH.W` (R96) -/
  | flushW
  /-- `FLUSH.B` (R97) -/
  | flushB
  /-- `EVT.INC` (R107) -/
  | evtInc
  /-- `EVT.DEC` (R108) -/
  | evtDec
  /-- `EVT.RISE src` (R109) -/
  | evtRise (src : Source)
deriving DecidableEq, Repr

end Sys2Proof
end

