-- ==== Sys2Proof/WellFormed.lean ====
section
/-! DEFINITION. Which operations are well formed: every operand in its legal range.
spec/30_encoding.md R63 (legal values), R65 last part, spec/70_reset_and_hazards.md R158 (d). -/

namespace Sys2Proof

/-- Every operand in the range R63 calls legal: LOOKUP's `d` in 0..9, SETPX's `idx` in 0..24.
An operation outside it still has an encoding; taking it is the fault of R121. -/
def Instr.wf : Instr → Bool
  | .lookup d => decide (d.toNat < 10)
  | .clear => true
  | .setpx idx _ _ _ => decide (idx.toNat < 25)
  | .render _ _ => true
  | .flushW => true
  | .flushB => true
  | .evtInc => true
  | .evtDec => true
  | .evtRise _ => true

end Sys2Proof
end

