-- ==== Sys2Proof/Decode.lean ====
section
/-! DEFINITION. Request words: the decoder, the encoder and the opcode map.
spec/30_encoding.md R62 (formats), R63 (fields), R64 (opcode map), R65 (reserved), R66 (one length, no state). -/

namespace Sys2Proof

/-- Why a word is no request of PXS-1 (R65): both raise `F_REQ` when taken. -/
inductive Reserved where
  /-- `op` is `0x0` or in `0x7 .. 0xF` -/
  | undefinedOp
  /-- a defined `op` with a nonzero reserved bit -/
  | reservedBit
deriving DecidableEq, Repr

/-- `req[39:36]`, the operation code (R62). -/
def opField (req : Request) : BitVec 4 := req.extractLsb' 36 4

/-- The two values of `src` (R63). -/
def Source.ofBit (src : BitVec 1) : Source := if src = 0#1 then .increment else .decrement

/-- The value of `src` for a source tag (R63). -/
def Source.toBit : Source → BitVec 1
  | .increment => 0#1
  | .decrement => 1#1

/-- Format G: bits 35..4 reserved, `d` in 3..0 (R62). -/
def decodeG (req : Request) : Except Reserved Instr :=
  if req.extractLsb' 4 32 = 0#32 then .ok (.lookup (req.extractLsb' 0 4)) else .error .reservedBit

/-- Format N: bits 35..0 reserved (R62). -/
def decodeN (req : Request) : Except Reserved Instr :=
  if req.extractLsb' 0 36 = 0#36 then .ok .clear else .error .reservedBit

/-- Format P: bits 35..29 reserved, then `idx`, `r`, `g`, `b` (R62). -/
def decodeP (req : Request) : Except Reserved Instr :=
  if req.extractLsb' 29 7 = 0#7 then
    .ok (.setpx (req.extractLsb' 24 5) (req.extractLsb' 16 8) (req.extractLsb' 8 8) (req.extractLsb' 0 8))
  else .error .reservedBit

/-- Format R: bits 35..33 reserved, then `inten`, `pattern` (R62). -/
def decodeR (req : Request) : Except Reserved Instr :=
  if req.extractLsb' 33 3 = 0#3 then
    .ok (.render (req.extractLsb' 0 25) (req.extractLsb' 25 8))
  else .error .reservedBit

/-- Format F: bits 35..1 reserved, `m` in bit 0: 0 is mode `W`, 1 is mode `B` (R62, R63). -/
def decodeF (req : Request) : Except Reserved Instr :=
  if req.extractLsb' 1 35 = 0#35 then
    if req.extractLsb' 0 1 = 0#1 then .ok .flushW else .ok .flushB
  else .error .reservedBit

/-- Format E: bits 35..2 reserved, `edge` in bit 1 (0 falling, 1 rising), `src` in bit 0 (R62, R63). -/
def decodeE (req : Request) : Except Reserved Instr :=
  if req.extractLsb' 2 34 = 0#34 then
    if req.extractLsb' 1 1 = 0#1 then
      match Source.ofBit (req.extractLsb' 0 1) with
      | .increment => .ok .evtInc
      | .decrement => .ok .evtDec
    else .ok (.evtRise (Source.ofBit (req.extractLsb' 0 1)))
  else .error .reservedBit

/-- The decoder: total on every 40-bit word, and a function of the word alone (R64, R65, R66). -/
def decode (req : Request) : Except Reserved Instr :=
  if opField req = 0x1#4 then decodeG req
  else if opField req = 0x2#4 then decodeN req
  else if opField req = 0x3#4 then decodeP req
  else if opField req = 0x4#4 then decodeR req
  else if opField req = 0x5#4 then decodeF req
  else if opField req = 0x6#4 then decodeE req
  else .error .undefinedOp

/-- The encoder, written from the format tables of R62, most significant field first. -/
def encode : Instr → Request
  | .lookup d => 0x1#4 ++ 0#32 ++ d
  | .clear => 0x2#4 ++ 0#36
  | .setpx idx r g b => 0x3#4 ++ 0#7 ++ idx ++ r ++ g ++ b
  | .render pattern inten => 0x4#4 ++ 0#3 ++ inten ++ pattern
  | .flushW => 0x5#4 ++ 0#35 ++ 0#1
  | .flushB => 0x5#4 ++ 0#35 ++ 1#1
  | .evtInc => 0x6#4 ++ 0#34 ++ 0#1 ++ 0#1
  | .evtDec => 0x6#4 ++ 0#34 ++ 0#1 ++ 1#1
  | .evtRise src => 0x6#4 ++ 0#34 ++ 1#1 ++ src.toBit

/-! ### The opcode map as data -/

/-- One row of the opcode map: a request selects it when `(req & mask) = match` (R64). -/
structure OpRow where
  /-- the row's name -/
  mnemonic : String
  /-- the bits the row fixes -/
  mask : Request
  /-- their values -/
  pattern : Request
deriving DecidableEq, Repr

/-- `(req & mask) = match` (R64). -/
def OpRow.selects (row : OpRow) (req : Request) : Bool := decide (req &&& row.mask = row.pattern)

/-- The nine rows of R64, in its order. -/
def opcodeMap : List OpRow :=
  [ ⟨"LOOKUP", 0xFFFFFFFFF0#40, 0x1000000000#40⟩,
    ⟨"CLEAR", 0xFFFFFFFFFF#40, 0x2000000000#40⟩,
    ⟨"SETPX", 0xFFE0000000#40, 0x3000000000#40⟩,
    ⟨"RENDER", 0xFE00000000#40, 0x4000000000#40⟩,
    ⟨"FLUSH.W", 0xFFFFFFFFFF#40, 0x5000000000#40⟩,
    ⟨"FLUSH.B", 0xFFFFFFFFFF#40, 0x5000000001#40⟩,
    ⟨"EVT.INC", 0xFFFFFFFFFF#40, 0x6000000000#40⟩,
    ⟨"EVT.DEC", 0xFFFFFFFFFF#40, 0x6000000001#40⟩,
    ⟨"EVT.RISE", 0xFFFFFFFFFE#40, 0x6000000002#40⟩ ]

/-- The operation's mnemonic (R64). -/
def Instr.mnemonic : Instr → String
  | .lookup _ => "LOOKUP"
  | .clear => "CLEAR"
  | .setpx _ _ _ _ => "SETPX"
  | .render _ _ => "RENDER"
  | .flushW => "FLUSH.W"
  | .flushB => "FLUSH.B"
  | .evtInc => "EVT.INC"
  | .evtDec => "EVT.DEC"
  | .evtRise _ => "EVT.RISE"

/-! ### The opcode table's numbering -/

/-- The request word whose bits are `w`, numbered as the opcode table numbers them: bit 0 the least
significant of the one 40-bit word, the bits from `nbits` on zero. DESIGN CHOICE (assumption 12), safe. -/
def tableRequest (nbits w : Nat) : Request := BitVec.ofNat 40 (w % 2 ^ nbits)

/-- What the decoder reads from a table row's word. -/
def decodeTableWord (nbits w : Nat) : Option Instr :=
  match decode (tableRequest nbits w) with
  | .ok i => some i
  | .error _ => none

end Sys2Proof
end

