-- ==== Sys2Proof/Machine/State.lean ====
section
/-! DEFINITION. The state of the block, the reasons a step could stop, and the state after power-on reset.
spec/10_state.md R20 to R34, spec/60_exceptions.md R121 to R123. -/

namespace Sys2Proof.Machine

/-- The fault codes (R121). Entered by the machine itself as a next state (R122), see `Seq.fault`. -/
inductive FaultCode where
  /-- `F_REQ`, code 1: the request selects no row of the opcode map -/
  | fReq
  /-- `F_DIGIT`, code 2: LOOKUP with `d >= 10` -/
  | fDigit
  /-- `F_INDEX`, code 3: SETPX with `idx >= 25` -/
  | fIndex
deriving DecidableEq, Repr

/-- The sequencer `SEQ` with the registers that exist only in one of its states (R24, R25; assumption 5). -/
inductive Seq where
  /-- `IDLE`: no operation in progress -/
  | idle
  /-- `FLUSH` with `FMODE`, `FI` in 0..24 and `FP` in 0..2 -/
  | flush (fmode : WireMode) (fi : Fin 25) (fp : Fin 3)
  /-- `FAULT` with `FCODE` -/
  | fault (fcode : FaultCode)
deriving DecidableEq, Repr

/-- One unit of the output stream (R12 `Emit`, R34, R68). -/
inductive OutUnit where
  /-- `word(w)`, 32 bits -/
  | word (w : PackedWord)
  /-- `byte(v)`, 8 bits -/
  | byte (v : Channel)
deriving DecidableEq, Repr

/-- The response statuses (R67). -/
inductive Status where
  /-- `DONE`, 0 -/
  | done
  /-- `REJECTED`, 1 -/
  | rejected
  /-- `IGNORED`, 2 -/
  | ignored
deriving DecidableEq, Repr

/-- One response `(status, value)` (R67). -/
structure Response where
  /-- `rsp_status` -/
  status : Status
  /-- `rsp_value` -/
  value : Pattern
deriving DecidableEq, Repr

/-- Why a step could stop with a fault: never. The spec's faults are states of the block, entered and
left by steps (R122, R123), so no step of this model ends in one (assumption 11); safe. -/
inductive Fault
deriving DecidableEq, Repr

/-- Why a step could be refused. -/
inductive Refusal where
  /-- Raised by an arm of `exec` whose operation had no meaning yet; no arm raises it now. Safe. -/
  | notModelled (mnemonic : String)
deriving DecidableEq, Repr

/-- The whole state: the spec's registers (10_state.md), its ghost histories (R34), the configuration
(assumption 2) and the environment's coming inputs (assumption 1). -/
structure State where
  /-- `PB[0]` .. `PB[24]` (R20) -/
  pb : PixelBuffer
  /-- `DIGIT`, a natural number below 10 (R22) -/
  digit : Fin 10
  /-- `LAST_T` (R23) -/
  lastT : Timestamp
  /-- `SEQ` with `FMODE`, `FI`, `FP` or `FCODE` (R24, R25) -/
  seq : Seq
  /-- `OUT`, the units handed to the sink, oldest first (R34, R47) -/
  out : List OutUnit
  /-- `RSP`, the responses produced, oldest first (R34, R67) -/
  rsp : List Response
  /-- `cfg`, written by nothing (R8, R27) -/
  cfg : Config
  /-- the input signals of the coming steps, the next step's first (assumption 1) -/
  inputs : List PortInputs
  /-- which free draw of the input signals comes after `inputs` (assumption 1) -/
  tick : Nat
deriving DecidableEq, Repr

/-- The state right after the power-on reset that starts a run (R32, R150): the buffer cleared, the digit
and the timer 0, the sequencer idle, the histories empty, the environment unknown. -/
def State.reset : State where
  pb := Vector.replicate 25 ⟨0, 0, 0⟩
  digit := 0
  lastT := 0
  seq := .idle
  out := []
  rsp := []
  cfg := Config.build
  inputs := []
  tick := 0

end Sys2Proof.Machine
end

