-- ==== Sys2Proof/Machine/Ops.lean ====
section
/-! DEFINITION. The shared operations: storage access, responses, emission, taking a fault, reset,
the port outputs and the input signals of a step.
spec/00_scope.md R12, spec/20_memory.md, spec/30_encoding.md R60, R67 to R69, spec/60_exceptions.md R122. -/

namespace Sys2Proof.Machine

/-- What one step of the machine answers. -/
abbrev Result := Host.Outcome State Fault Refusal

/-- Apply `f` to the next state of a result; a stop stays as it is. -/
def onNext (f : State → State) : Result → Result
  | .next s => .next (f s)
  | .fault r => .fault r
  | .refused r => .refused r

/-! ### The input signals of a step (assumption 1) -/

/-- The input signals of the step about to be taken: the first listed, or else the next free draw. -/
def State.ports (s : State) : PortInputs :=
  match s.inputs with
  | p :: _ => p
  | [] => Config.freePorts s.tick

/-- The environment moves on to the next step's input signals. -/
def State.advance (s : State) : State :=
  match s.inputs with
  | _ :: rest => { s with inputs := rest }
  | [] => { s with tick := s.tick + 1 }

/-! ### Indexed storage (R12, R30, R44) -/

/-- `MemRead(GROM, d, 1)`: one element of the glyph ROM (R12, R54). -/
def gromRead (s : State) (d : Fin 10) : Pattern := s.cfg.glyph[d]

/-- `MemRead(PBUF, i, 1)`: one pixel register (R12). -/
def pbufRead (s : State) (i : Fin 25) : Pixel := s.pb[i]

/-- `MemWrite(PBUF, i, 1, px)`: all three channels of one pixel in one step (R12, R45). -/
def pbufWrite (i : Fin 25) (px : Pixel) (s : State) : State := { s with pb := s.pb.set i px }

/-- The whole buffer written in one step (R13, R45). -/
def pbufWriteAll (pb : PixelBuffer) (s : State) : State := { s with pb := pb }

/-- The buffer with every pixel `(0, 0, 0)` (R32, R85). -/
def clearBuffer : PixelBuffer := Vector.replicate 25 ⟨0, 0, 0⟩

/-! ### Responses and emission (R34, R47, R67) -/

/-- `Respond(status, value); SEQ <- IDLE`: an operation ends in this step (R67, R99, R132). -/
def finish (status : Status) (value : Pattern) (s : State) : State :=
  { s with rsp := s.rsp ++ [⟨status, value⟩], seq := .idle }

/-- `Emit(unit)`: the sink takes one unit (R12, R47). -/
def emit (unit : OutUnit) (s : State) : State := { s with out := s.out ++ [unit] }

/-- `SEQ <- target`: the sequencer moves (R12). -/
def setSeq (target : Seq) (s : State) : State := { s with seq := target }

/-- The start of a flush (R95): `FMODE <- mode; FI <- 0; FP <- 0; SEQ <- FLUSH`, no response. -/
def startFlush (mode : WireMode) (s : State) : State := setSeq (.flush mode 0 0) s

/-! ### Faults and reset -/

/-- Taking a fault (R122): `FCODE <- code; SEQ <- FAULT`, and nothing else is written. -/
def raiseFault (code : FaultCode) (s : State) : State := setSeq (.fault code) s

/-- The `reset` step (R26, R32, R150), the only exit from the fault state (R123, R151): every register to
its reset value; the configuration and the histories stay (R34, 90_conflicts.md C13; assumption 6). -/
def resetRegisters (s : State) : State :=
  { s with pb := clearBuffer, digit := 0, lastT := 0, seq := .idle }

/-! ### The wire formats (R40 to R43) -/

/-- The packed word of a pixel (R41, R96): `(g << 24) | (r << 16) | (b << 8)`. -/
def packWord (px : Pixel) : PackedWord :=
  (px.g.setWidth 32 <<< 24) ||| (px.r.setWidth 32 <<< 16) ||| (px.b.setWidth 32 <<< 8)

/-- The byte of a pixel in one channel phase (R24, R42, R97): 0 green, 1 red, 2 blue. -/
def phaseByte (px : Pixel) (fp : Fin 3) : Channel :=
  match fp with
  | 0 => px.g
  | 1 => px.r
  | 2 => px.b

/-- The unit a pixel gives in a mode and phase (R96, R97). -/
def unitOf (mode : WireMode) (px : Pixel) (fp : Fin 3) : OutUnit :=
  match mode with
  | .packedWord => .word (packWord px)
  | .byteTriplet => .byte (phaseByte px fp)

/-! ### The port outputs -/

/-- `req_ready`, 1 exactly when `SEQ = IDLE` (R60). -/
def State.reqReady (s : State) : Bool :=
  match s.seq with
  | .idle => true
  | _ => false

/-- The unit offered on the output port, `none` while `out_valid = 0` (R68; assumption 10). -/
def State.offered (s : State) : Option OutUnit :=
  match s.seq with
  | .flush mode fi fp => some (unitOf mode (pbufRead s fi) fp)
  | _ => none

/-- `out_valid`, 1 exactly when `SEQ = FLUSH` (R68). -/
def State.outValid (s : State) : Bool := s.offered.isSome

/-- `out_unit`: 0 for a word, 1 for a byte (R68). -/
def OutUnit.tag : OutUnit → BitVec 1
  | .word _ => 0#1
  | .byte _ => 1#1

/-- `out_data[31:0]` for a unit: the word, or the byte in bits 7..0 with zeros above (R68). -/
def OutUnit.data : OutUnit → PackedWord
  | .word w => w
  | .byte v => v.setWidth 32

/-- `fault_code`'s number for a code (R121). -/
def FaultCode.toBits : FaultCode → BitVec 2
  | .fReq => 1#2
  | .fDigit => 2#2
  | .fIndex => 3#2

/-- `fault_code = FCODE`, `none` while `fault = 0` (R67; assumption 10). -/
def State.faultCode (s : State) : Option (BitVec 2) :=
  match s.seq with
  | .fault code => some code.toBits
  | _ => none

/-- `fault`, 1 exactly when `SEQ = FAULT` (R67). -/
def State.faultLine (s : State) : Bool := s.faultCode.isSome

/-- `rsp_status`'s number (R67). -/
def Status.toBits : Status → BitVec 2
  | .done => 0#2
  | .rejected => 1#2
  | .ignored => 2#2

/-- The response on the response port in a step from `s` to `t`, `none` while `rsp_valid = 0`
(R67; assumption 10): the entry that the step adds to `RSP`. -/
def stepResponse (s t : State) : Option Response := t.rsp[s.rsp.length]?

/-- `rsp_valid` in a step from `s` to `t` (R67). -/
def rspValid (s t : State) : Bool := (stepResponse s t).isSome

/-- `rsp_status` in a step from `s` to `t`, `none` while `rsp_valid = 0` (R67; assumption 10). -/
def rspStatus (s t : State) : Option (BitVec 2) := (stepResponse s t).map fun r => r.status.toBits

/-- `rsp_value` in a step from `s` to `t`, `none` while `rsp_valid = 0` (R67; assumption 10). -/
def rspValue (s t : State) : Option Pattern := (stepResponse s t).map fun r => r.value

end Sys2Proof.Machine
end

