-- ==== Sys2Proof/Machine/Operands.lean ====
section
/-! DEFINITION. The operand forms: the two range-checked indices and the time port's sample.
spec/20_memory.md R44, spec/30_encoding.md R63, R69, spec/60_exceptions.md R121, R130. -/

namespace Sys2Proof.Machine

/-- LOOKUP's operand `d` as a ROM index, `none` when `d >= 10` (R80, R121); never reduced modulo 10 (R44). -/
def digitOperand (d : BitVec 4) : Option (Fin 10) :=
  if h : d.toNat < 10 then some ⟨d.toNat, h⟩ else none

/-- SETPX's operand `idx` as a buffer index, `none` when `idx >= 25` (R86, R121); never reduced modulo 25
and never clamped (R44). -/
def indexOperand (idx : BitVec 5) : Option (Fin 25) :=
  if h : idx.toNat < 25 then some ⟨idx.toNat, h⟩ else none

/-- The implicit operand of EVT.INC and EVT.DEC: the time port sampled in the `take` step (R69). -/
def sampleNow (s : State) : Timestamp := s.ports.now

end Sys2Proof.Machine
end

