-- ==== Sys2Proof/Machine/Flags.lean ====
section
/-! DEFINITION. The block has no flags and no condition codes (spec/10_state.md R28). What it computes in
their place is one condition, the debounce guard, and the two digit updates.
spec/00_scope.md R6, R14, R15, spec/44_debounce.md R106 to R108. -/

namespace Sys2Proof.Machine

/-- `DEBOUNCE_MS = 50` (R6, R27). -/
def debounceMs : Timestamp := 50#64

/-- `elapsed <- (now - LAST_T) mod 2^64` (R15, R106). -/
def elapsed (now lastT : Timestamp) : Timestamp := now - lastT

/-- The guard (R106): accepted unless `elapsed <= 50`, an unsigned 64-bit comparison. -/
def accepted (now lastT : Timestamp) : Bool := !(elapsed now lastT).ule debounceMs

/-- `(DIGIT + 1) mod 10` (R107). -/
def incDigit (d : Fin 10) : Fin 10 := ⟨(d.val + 1) % 10, Nat.mod_lt _ (by decide)⟩

/-- `(DIGIT - 1 + 10) mod 10`, computed as `DIGIT + 9` reduced (R108). -/
def decDigit (d : Fin 10) : Fin 10 := ⟨(d.val + 9) % 10, Nat.mod_lt _ (by decide)⟩

end Sys2Proof.Machine
end

