-- ==== Sys2Proof/Machine/Renderer.lean ====
section
/-! DEFINITION. The Renderer: RENDER. spec/42_renderer.md R90 to R92. -/

namespace Sys2Proof.Machine

/-- One rendered pixel (R90): foreground `(I, I, I)` where the pattern's bit is 1, background `(I, 0, 0)`. -/
def renderPixel (pattern : Pattern) (inten : Channel) (i : Fin 25) : Pixel :=
  if pattern.getLsbD i.val then ⟨inten, inten, inten⟩ else ⟨inten, 0, 0⟩

/-- The buffer a render writes, all 25 pixels (R90). -/
def renderBuffer (pattern : Pattern) (inten : Channel) : PixelBuffer :=
  ⟨((List.finRange 25).map (renderPixel pattern inten)).toArray, by simp⟩

/-- `RENDER pattern, inten` (R90): the intensity is the request's own operand (R92). -/
def execRender (pattern : Pattern) (inten : Channel) (s : State) : Result :=
  .next (finish .done 0 (pbufWriteAll (renderBuffer pattern inten) s))

end Sys2Proof.Machine
end

