-- ==== Sys2Proof/Machine/Serializer.lean ====
section
/-! DEFINITION. The Serializer: FLUSH.W, FLUSH.B, the `emit` step and the frame of a flush.
spec/43_serializer.md R95 to R101. -/

namespace Sys2Proof.Machine

/-- `FLUSH.W` (R96): start a flush in packed-word mode. -/
def execFlushW (s : State) : Result := .next (startFlush .packedWord s)

/-- `FLUSH.B` (R97): start a flush in byte-triplet mode. -/
def execFlushB (s : State) : Result := .next (startFlush .byteTriplet s)

/-- `last_of_pixel <- (FMODE = W) or (FP = 2)` (R98). -/
def lastOfPixel (fmode : WireMode) (fp : Fin 3) : Bool :=
  match fmode with
  | .packedWord => true
  | .byteTriplet => decide (fp = 2)

/-- The advance of `FI` and `FP` after a unit, and completion after the last unit of pixel 24 (R98, R99). -/
def advanceFlush (fmode : WireMode) (fi : Fin 25) (fp : Fin 3) (s : State) : State :=
  if lastOfPixel fmode fp then
    if h : fi.val < 24 then setSeq (.flush fmode ⟨fi.val + 1, by omega⟩ 0) s
    else finish .done 0 s
  else setSeq (.flush fmode fi (fp + 1)) s

/-- The `emit` step at `(FMODE, FI, FP)`, the sink being ready (R26, R98). -/
def emitStep (fmode : WireMode) (fi : Fin 25) (fp : Fin 3) (s : State) : State :=
  advanceFlush fmode fi fp (emit (unitOf fmode (pbufRead s fi) fp) s)

/-- The units one pixel gives in a mode, in order (R96, R97). -/
def pixelUnits (mode : WireMode) (px : Pixel) : List OutUnit :=
  match mode with
  | .packedWord => [.word (packWord px)]
  | .byteTriplet => [.byte px.g, .byte px.r, .byte px.b]

/-- `frame(mode, P)` (R100): 25 words, or 75 bytes, pixel 0 first. -/
def frame (mode : WireMode) (pb : PixelBuffer) : List OutUnit :=
  pb.toList.flatMap (pixelUnits mode)

/-- The position of the next unit in the frame (R98): `FI` in mode `W`, `3 * FI + FP` in mode `B`. -/
def framePosition (mode : WireMode) (fi : Fin 25) (fp : Fin 3) : Nat :=
  match mode with
  | .packedWord => fi.val
  | .byteTriplet => 3 * fi.val + fp.val

/-- How many units a frame has (R100): 25 words or 75 bytes. -/
def frameLength (mode : WireMode) : Nat :=
  match mode with
  | .packedWord => 25
  | .byteTriplet => 75

end Sys2Proof.Machine
end

