-- ==== Sys2Proof/Machine/Debounce.lean ====
section
/-! DEFINITION. The Input Debounce State Machine: EVT.INC, EVT.DEC, EVT.RISE.
spec/44_debounce.md R105 to R113. -/

namespace Sys2Proof.Machine

/-- The accept tail (R110), `DIGIT` already new: look the new digit's pattern up, render it at
`cfg.INTENSITY`, start the flush in `cfg.WIRE_MODE`; no response yet. -/
def acceptTail (s : State) : State :=
  startFlush s.cfg.wireMode
    (pbufWriteAll (renderBuffer (gromRead s s.digit) s.cfg.intensity) s)

/-- An accepted event (R107, R108): the new digit, `LAST_T <- now`, then the accept tail, in one step. -/
def acceptEvent (digit : Fin 10) (now : Timestamp) (s : State) : State :=
  acceptTail { s with digit := digit, lastT := now }

/-- A falling edge of either button (R106 to R108, R111): rejected within the window, else accepted with
the digit updated by `update`. -/
def fallingEdge (update : Fin 10 → Fin 10) (s : State) : State :=
  if accepted (sampleNow s) s.lastT then acceptEvent (update s.digit) (sampleNow s) s
  else finish .rejected 0 s

/-- `EVT.INC` (R107). -/
def execEvtInc (s : State) : Result := .next (fallingEdge incDigit s)

/-- `EVT.DEC` (R108). -/
def execEvtDec (s : State) : Result := .next (fallingEdge decDigit s)

/-- `EVT.RISE src` (R109): ignored, whichever button; the time port is not read. -/
def execEvtRise (_src : Source) (s : State) : Result := .next (finish .ignored 0 s)

end Sys2Proof.Machine
end

