-- ==== Sys2Proof/Machine/GlyphTable.lean ====
section
/-! DEFINITION. The Glyph Table: LOOKUP. spec/40_glyph_table.md R80 to R82. -/

namespace Sys2Proof.Machine

/-- `LOOKUP d` (R80): the fault `F_DIGIT` when `d >= 10`, else the response `(DONE, cfg.GLYPH[d])`. -/
def execLookup (d : BitVec 4) (s : State) : Result :=
  match digitOperand d with
  | none => .next (raiseFault .fDigit s)
  | some d => .next (finish .done (gromRead s d) s)

end Sys2Proof.Machine
end

