-- ==== Sys2Proof/Machine/PixelBuffer.lean ====
section
/-! DEFINITION. The Pixel Buffer operations: CLEAR, SETPX. spec/41_pixel_buffer.md R85, R86. -/

namespace Sys2Proof.Machine

/-- `CLEAR` (R85): every pixel `(0, 0, 0)`. -/
def execClear (s : State) : Result :=
  .next (finish .done 0 (pbufWriteAll clearBuffer s))

/-- `SETPX idx, r, g, b` (R86): the fault `F_INDEX` when `idx >= 25`, before any write; else one pixel. -/
def execSetpx (idx : BitVec 5) (r g b : Channel) (s : State) : Result :=
  match indexOperand idx with
  | none => .next (raiseFault .fIndex s)
  | some i => .next (finish .done 0 (pbufWrite i ⟨r, g, b⟩ s))

end Sys2Proof.Machine
end

