-- ==== Sys2Proof/Machine/Dispatch.lean ====
section
/-! DEFINITION. One arm per operation: the body of its `take` step. spec/10_state.md R26, spec/30_encoding.md R64. -/

namespace Sys2Proof.Machine

/-- The body of the operation's `take` step (R26). -/
def exec (i : Instr) (s : State) : Host.Outcome State Fault Refusal :=
  match i with
  | .lookup d => Sys2Proof.Machine.execLookup d s
  | .clear => Sys2Proof.Machine.execClear s
  | .setpx idx r g b => Sys2Proof.Machine.execSetpx idx r g b s
  | .render pattern inten => Sys2Proof.Machine.execRender pattern inten s
  | .flushW => Sys2Proof.Machine.execFlushW s
  | .flushB => Sys2Proof.Machine.execFlushB s
  | .evtInc => Sys2Proof.Machine.execEvtInc s
  | .evtDec => Sys2Proof.Machine.execEvtDec s
  | .evtRise src => Sys2Proof.Machine.execEvtRise src s

end Sys2Proof.Machine
end

