-- ==== Sys2Proof/Machine/Sequencer.lean ====
section
/-! DEFINITION. The steps of the block: `reset`, `take`, `emit`, and waiting. spec/10_state.md R26. -/

namespace Sys2Proof.Machine

/-- The `take` step of a request word (R26, R130): decode first; a reserved word is `F_REQ` (R65, R121),
anything else is its operation's rule. -/
def takeRequest (req : Request) (s : State) : Result :=
  match decode req with
  | .ok i => exec i s
  | .error _ => .next (raiseFault .fReq s)

/-- One step of the block under the input signals `p` (R26). Reset is taken whenever `rst = 1`
(DESIGN CHOICE that it comes before a `take` or `emit` of the same step, assumption 3; safe). Where no step
of the block is enabled it waits, is stalled or is stopped, and nothing changes (assumption 4; safe). -/
def blockStep (p : PortInputs) (s : State) : Result :=
  if p.rst then .next (resetRegisters s)
  else
    match s.seq with
    | .idle =>
      match p.req with
      | some req => takeRequest req s
      | none => .next s
    | .flush fmode fi fp => if p.outReady then .next (emitStep fmode fi fp s) else .next s
    | .fault _ => .next s

end Sys2Proof.Machine
end

