-- ==== Sys2Proof/Machine/Step.lean ====
section
/-! DEFINITION. One step of the machine, and where a request word is placed for the next step.
spec/10_state.md R26, spec/30_encoding.md R60. -/

namespace Sys2Proof.Machine

/-- One step: the block under the step's input signals, then the environment moves on (assumption 1). -/
def step (s : State) : Host.Outcome State Fault Refusal :=
  onNext State.advance (blockStep s.ports s)

/-- `s` with the table word presented on the request port in the very next step (assumption 8): the
sequencer idle, `rst = 0`, `req_valid = 1`, and `now` the first instant at which the guard of R106 accepts. -/
def State.withFetchWord (s : State) (nbits w : Nat) : State :=
  { s with
    seq := .idle
    inputs := ⟨false, some (tableRequest nbits w), s.lastT + 51, false⟩ :: s.inputs }

end Sys2Proof.Machine
end

