-- ==== Sys2Proof/Safety.lean ====
section
/-! DEFINITION. The terms in which claims are stated: runs, the environment's coming inputs and duties, what a
step leaves unchanged, the run of a flush, and the invariant of a flush in progress.
spec/10_state.md R26, R33, R34, spec/43_serializer.md R100, spec/60_exceptions.md R138, R139. -/

namespace Sys2Proof.Machine

/-- `n` steps of the machine. -/
def run (n : Nat) (s : State) : Result := Sys2Proof.core.run n s

/-- The operations of a list taken one after the other, none of them waiting for a flush (R50). -/
def execAll : List Instr → State → Result
  | [], s => .next s
  | i :: rest, s =>
    match exec i s with
    | .next t => execAll rest t
    | .fault r => .fault r
    | .refused r => .refused r

/-! ### The environment's coming inputs -/

/-- The input signals of the `k`-th step from now, the coming one being number 0. -/
def State.upcoming (s : State) (k : Nat) : PortInputs :=
  (s.inputs[k]?).getD (Config.freePorts (s.tick + (k - s.inputs.length)))

/-- No reset in the next `n` steps. -/
def NoReset (s : State) (n : Nat) : Prop := ∀ k, k < n → (s.upcoming k).rst = false

/-- In how many of the next `n` steps the sink is ready. -/
def readyCount (s : State) (n : Nat) : Nat := (List.range n).countP fun k => (s.upcoming k).outReady

/-- In every one of the next `n` steps the sink is ready. -/
def AlwaysReady (s : State) (n : Nat) : Prop := ∀ k, k < n → (s.upcoming k).outReady = true

/-- The coming step is the `take` step of `req` (R26, R60). -/
def State.Takes (s : State) (req : Request) : Prop :=
  s.ports.rst = false ∧ s.seq = .idle ∧ s.ports.req = some req

/-- The coming step is the `emit` step at `(FMODE, FI, FP)` (R26, R68). -/
def State.Emits (s : State) (fmode : WireMode) (fi : Fin 25) (fp : Fin 3) : Prop :=
  s.ports.rst = false ∧ s.seq = .flush fmode fi fp ∧ s.ports.outReady = true

/-- The coming step samples the time port: it is the `take` step of EVT.INC or EVT.DEC (R69). -/
def State.SamplesTime (s : State) : Prop := s.Takes (encode .evtInc) ∨ s.Takes (encode .evtDec)

/-- The environment's duty on time over the next `n` steps (R138, R139): of two of them that sample the time
port, the later samples a value no smaller. What the port carries in any other step is free. -/
def MonotonicTime (s : State) (n : Nat) : Prop :=
  ∀ (j k : Nat) (t u : State), j < k → k < n → run j s = .next t → run k s = .next u →
    t.SamplesTime → u.SamplesTime → t.ports.now.toNat ≤ u.ports.now.toNat

/-! ### Frames -/

/-- `PB`, `DIGIT` and `LAST_T` are the same. -/
def SameRegisters (s t : State) : Prop := t.pb = s.pb ∧ t.digit = s.digit ∧ t.lastT = s.lastT

/-- The configuration and what the environment will do are the same. -/
def SameSurroundings (s t : State) : Prop := t.cfg = s.cfg ∧ t.inputs = s.inputs ∧ t.tick = s.tick

/-- The buffer is the rendering of a pattern at an intensity, bit by bit as R90 writes it. -/
def RenderedAs (pb : PixelBuffer) (pattern : Pattern) (inten : Channel) : Prop :=
  ∀ i : Fin 25, pb[i] = if (pattern >>> i.val) &&& 1#25 = 1#25 then ⟨inten, inten, inten⟩ else ⟨inten, 0, 0⟩

/-- `(now - LAST_T) mod 2^64` over the natural numbers (R15, R106). -/
def elapsedMs (now lastT : Timestamp) : Nat := (now.toNat + 2 ^ 64 - lastT.toNat) % 2 ^ 64

/-- `i` is a falling-edge event that moves `DIGIT` from `d` to `d'` when it is accepted (R107, R108). -/
def MovesDigit (i : Instr) (d d' : Fin 10) : Prop :=
  (i = .evtInc ∧ d'.val = (d.val + 1) % 10) ∨ (i = .evtDec ∧ d'.val = (d.val + 9) % 10)

/-! ### Flushes -/

/-- A flush is in progress. -/
def State.Flushing (s : State) : Prop := ∃ fmode fi fp, s.seq = .flush fmode fi fp

/-- After `n` steps from `s` the flush in progress has just ended, in `t` with the sequencer idle. -/
def FlushEndsIn (s : State) (n : Nat) (t : State) : Prop :=
  run n s = .next t ∧ t.seq = .idle ∧ ∀ k, k < n → ∀ u, run k s = .next u → u.Flushing

/-- The flush in progress in `s` has not ended within `n` steps. -/
def FlushLasts (s : State) (n : Nat) : Prop := ∀ k, k < n → ∀ u, run k s = .next u → u.Flushing

/-- The sink's duty (R138), weak fairness of the `emit` step: in every step of the flush in progress a unit is
offered, and in that step or a later one the sink is ready, with no bound on how much later. The duty over a
run is that every state of the run meets it. -/
def SinkWeaklyFair (s : State) : Prop :=
  ∀ k, FlushLasts s (k + 1) → ∃ j, k ≤ j ∧ (s.upcoming j).outReady = true

/-- No reset during the flush in progress. -/
def NoResetDuringFlush (s : State) : Prop := ∀ k, FlushLasts s (k + 1) → (s.upcoming k).rst = false

/-- The requester holds `req` (R128): presents it in every step of the flush in progress and in the step after its
end, with no reset in these steps. Where no flush is in progress, it presents it in the coming step. -/
def HoldsRequest (s : State) (req : Request) : Prop :=
  ∀ k, FlushLasts s k → (s.upcoming k).rst = false ∧ (s.upcoming k).req = some req

/-- The flush that the coming step starts, if it starts one: its mode, and the buffer it starts with (R95,
R110). -/
def State.startsFlush (s : State) : Option (WireMode × PixelBuffer) :=
  match s.seq, step s with
  | .idle, .next t =>
    match t.seq with
    | .flush fmode _ _ => some (fmode, t.pb)
    | .idle | .fault _ => none
  | _, _ => none

/-- The flushes started in the next `n` steps, in the order in which their requests are taken (R50). -/
def flushesStarted : Nat → State → List (WireMode × PixelBuffer)
  | 0, _ => []
  | n + 1, s =>
    s.startsFlush.toList ++
      match step s with
      | .next t => flushesStarted n t
      | .fault _ | .refused _ => []

/-- The invariant of a flush in progress (R33, R51, R98): in mode `W` the phase is 0, and what has been handed
over of the frame of the CURRENT buffer, up to the position, is exactly the end of the output history. -/
def FlushInv (s : State) : Prop :=
  ∀ fmode fi fp, s.seq = .flush fmode fi fp →
    (fmode = .packedWord → fp = 0) ∧ (frame fmode s.pb).take (framePosition fmode fi fp) <:+ s.out

/-- No fault is reached (R123: "a claim about a program should carry \"no fault is reached\" as a conclusion"). -/
def State.NoFault (s : State) : Prop := ∀ code, s.seq ≠ .fault code

/-- Every request presented in the next `n` steps is a well-formed operation (R158 (d)). -/
def WellFormedRequests (s : State) (n : Nat) : Prop :=
  ∀ k, k < n → ∀ req, (s.upcoming k).req = some req → ∃ i, decode req = .ok i ∧ i.wf = true

/-- Every request presented in the next `n` steps is one of the four EVT words, written out from R64: the product
(R70). -/
def OnlyEvents (s : State) (n : Nat) : Prop :=
  ∀ k, k < n → ∀ req, (s.upcoming k).req = some req →
    req = 0x6000000000#40 ∨ req = 0x6000000001#40 ∨ req = 0x6000000002#40 ∨ req = 0x6000000003#40

/-- The buffer is the reset one with `DIGIT = 0`, or the rendering of the current digit (R110, R112). -/
def ShowsDigit (s : State) : Prop :=
  (s.digit = 0 ∧ ∀ i : Fin 25, s.pb[i] = ⟨0, 0, 0⟩) ∨ RenderedAs s.pb s.cfg.glyph[s.digit] s.cfg.intensity

end Sys2Proof.Machine
end

