-- ==== Sys2Proof/Certificates/Slice0/Obligations.lean ====
section
/-! DEFINITION. The statements for the provers, family by family: encoding, stepping, reset and faults, LOOKUP,
CLEAR and SETPX, RENDER, the flush, the debounce, whole-machine rules. Each docstring names the rules of spec/. -/

open Sys2Proof Sys2Proof.Machine

/-! ### Encoding (30_encoding.md) -/

/-- R62 to R64: every operation, with every value of every operand, decodes back from its request word. -/
def Obligations.EncodedRequestDecodesBack : Prop :=
  ∀ i : Instr, decode (encode i) = .ok i

/-- R63, R65: a word that decodes is the encoding of what it decodes to, so no bit of it is dropped. -/
def Obligations.DecodedWordEncodesBack : Prop :=
  ∀ (req : Request) (i : Instr), decode req = .ok i → encode i = req

/-- R64, R65: an operation is decoded exactly when its own row of the opcode map selects the word, and the
word is reserved exactly when no row selects it. -/
def Obligations.DecoderAgreesWithOpcodeMap : Prop :=
  ∀ req : Request,
    (∀ i, decode req = .ok i → ∃ row ∈ opcodeMap, row.mnemonic = i.mnemonic ∧ row.selects req = true) ∧
    ((∃ e, decode req = .error e) ↔ ∀ row ∈ opcodeMap, row.selects req = false)

/-- R64: "The rows are pairwise disjoint". -/
def Obligations.OpcodeRowsAreDisjoint : Prop :=
  ∀ req : Request, ∀ a ∈ opcodeMap, ∀ b ∈ opcodeMap,
    a.selects req = true → b.selects req = true → a = b

/-- 95_test_vectors.md 2.1: words written out from the format tables decode to the operations they stand for. -/
def Obligations.SpecWordsDecode : Prop :=
  decode 0x1000000007#40 = .ok (.lookup 7) ∧
  decode 0x2000000000#40 = .ok .clear ∧
  decode 0x3003010203#40 = .ok (.setpx 3 1 2 3) ∧
  decode 0x4014123456#40 = .ok (.render 0x0123456 10) ∧
  decode 0x5000000000#40 = .ok .flushW ∧
  decode 0x5000000001#40 = .ok .flushB ∧
  decode 0x6000000000#40 = .ok .evtInc ∧
  decode 0x6000000001#40 = .ok .evtDec ∧
  decode 0x6000000003#40 = .ok (.evtRise .decrement)

/-! ### Stepping (10_state.md R26) -/

/-- R26, R60: the `take` step of a word that decodes to an operation is that operation's meaning; the step
adds only that the environment moves on to the next step's inputs (assumption 1, the model's choice), which
changes nothing else. -/
def Obligations.StepRunsDecodedRequest : Prop :=
  (∀ (s : State) (req : Request) (i : Instr), s.Takes req → decode req = .ok i →
    step s = onNext State.advance (exec i s)) ∧
  (∀ (s : State), SameRegisters s s.advance ∧ s.advance.seq = s.seq ∧ s.advance.out = s.out ∧
    s.advance.rsp = s.rsp ∧ s.advance.cfg = s.cfg ∧ ∀ k, s.advance.upcoming k = s.upcoming (k + 1))

/-- The model's choice of where a table word is placed (assumption 8): the very next step takes it, whatever
the state was, and placing it changes no register and no history. -/
def Obligations.PlacedWordIsTakenNext : Prop :=
  ∀ (s : State) (nbits w : Nat) (i : Instr), decodeTableWord nbits w = some i →
    step (s.withFetchWord nbits w) = onNext State.advance (exec i (s.withFetchWord nbits w)) ∧
    SameRegisters s (s.withFetchWord nbits w) ∧ (s.withFetchWord nbits w).out = s.out ∧
    (s.withFetchWord nbits w).rsp = s.rsp ∧ (s.withFetchWord nbits w).cfg = s.cfg

/-- The model's choice: every run of every length has a state after it. That a waiting, stalled or stopped block
still takes a step of the model is assumption 4 (R26 only says that no step of the block is enabled there), and
that the spec's faults are states, so that no step stops, is assumption 11 (deduced from R122). -/
def Obligations.EveryRunGoesOn : Prop :=
  ∀ (n : Nat) (s : State), ∃ t, run n s = .next t

/-- R8: no operation writes the configuration and it is the same at the end of every run. (That State carries
it is assumption 2, the model's choice.) -/
def Obligations.ConfigurationNeverWritten : Prop :=
  (∀ (i : Instr) (s t : State), exec i s = .next t → t.cfg = s.cfg) ∧
  (∀ (n : Nat) (s t : State), run n s = .next t → t.cfg = s.cfg)

/-- R60 (the spec's decision D2): while `req_ready = 0` the block is not affected by `req_valid` or `req`. -/
def Obligations.BusyBlockIgnoresRequests : Prop :=
  ∀ (s : State) (p : PortInputs) (rest : List PortInputs) (req : Option Request),
    s.inputs = p :: rest → s.reqReady = false →
    step { s with inputs := { p with req := req } :: rest } = step s

/-- R26: with no request presented in IDLE, the sink not ready in FLUSH, or in FAULT, and no reset, nothing but
the environment moves (assumption 4, the model's choice that this is a step). -/
def Obligations.NothingEnabledNothingChanges : Prop :=
  ∀ s : State, s.ports.rst = false →
    ((s.seq = .idle ∧ s.ports.req = none) ∨ (s.Flushing ∧ s.ports.outReady = false) ∨ (∃ code, s.seq = .fault code)) →
    step s = .next s.advance

/-- R60, R67, R68 (decisions D2, D4, D5): the port outputs. In every state `req_ready`, `out_valid`, `out_unit`,
`out_data`, `fault` and `fault_code`, the unit being the one `(FMODE, FI, FP)` selects; and in a step that adds a
response, or none, the three response signals with the status numbers. -/
def Obligations.PortOutputsFollowSequencer : Prop :=
  (∀ s : State,
    (s.reqReady = true ↔ s.seq = .idle) ∧
    (s.outValid = true ↔ s.Flushing) ∧
    (s.faultLine = true ↔ ∃ code, s.seq = .fault code) ∧
    (s.seq = .fault .fReq → s.faultCode = some 1#2) ∧
    (s.seq = .fault .fDigit → s.faultCode = some 2#2) ∧
    (s.seq = .fault .fIndex → s.faultCode = some 3#2) ∧
    (∀ fi fp, s.seq = .flush .packedWord fi fp →
      s.offered = some (.word ((s.pb[fi]).g ++ (s.pb[fi]).r ++ (s.pb[fi]).b ++ 0#8))) ∧
    (∀ fi, s.seq = .flush .byteTriplet fi 0 → s.offered = some (.byte (s.pb[fi]).g)) ∧
    (∀ fi, s.seq = .flush .byteTriplet fi 1 → s.offered = some (.byte (s.pb[fi]).r)) ∧
    (∀ fi, s.seq = .flush .byteTriplet fi 2 → s.offered = some (.byte (s.pb[fi]).b))) ∧
  (∀ w : PackedWord, (OutUnit.word w).tag = 0#1 ∧ (OutUnit.word w).data = w) ∧
  (∀ v : Channel, (OutUnit.byte v).tag = 1#1 ∧ (OutUnit.byte v).data.extractLsb' 0 8 = v ∧
    (OutUnit.byte v).data.extractLsb' 8 24 = 0#24) ∧
  (∀ (s t : State) (status : Status) (value : Pattern), t.rsp = s.rsp ++ [⟨status, value⟩] →
    rspValid s t = true ∧ rspValue s t = some value ∧
    (status = .done → rspStatus s t = some 0#2) ∧
    (status = .rejected → rspStatus s t = some 1#2) ∧
    (status = .ignored → rspStatus s t = some 2#2)) ∧
  (∀ s t : State, t.rsp = s.rsp → rspValid s t = false)

/-! ### Reset and faults (60_exceptions.md, 70_reset_and_hazards.md) -/

/-- R32, R150 (decision D8 for `LAST_T`): the state the power-on reset leaves. -/
def Obligations.PowerOnResetState : Prop :=
  (∀ i : Fin 25, State.reset.pb[i] = ⟨0, 0, 0⟩) ∧ State.reset.digit = 0 ∧ State.reset.lastT = 0 ∧
  State.reset.seq = .idle ∧ State.reset.out = [] ∧ State.reset.rsp = [] ∧
  State.reset.reqReady = true ∧ State.reset.outValid = false ∧ State.reset.faultLine = false

/-- R26, R150, R151 (decisions D8, D27): reset in ANY state, in the middle of a flush and in the fault state too,
writes every register to its reset value, emits nothing, answers nothing and retracts nothing. (That reset
comes before a take or emit of the same step is assumption 3, the model's choice.) -/
def Obligations.ResetFromAnyState : Prop :=
  ∀ s : State, s.ports.rst = true →
    ∃ t, step s = .next t ∧ (∀ i : Fin 25, t.pb[i] = ⟨0, 0, 0⟩) ∧ t.digit = 0 ∧ t.lastT = 0 ∧ t.seq = .idle ∧
      t.out = s.out ∧ t.rsp = s.rsp ∧ t.cfg = s.cfg ∧
      t.reqReady = true ∧ t.outValid = false ∧ t.faultLine = false

/-- R65, R121, R122 (decisions D13, D14): taking a word that no row selects enters the fault state with
`F_REQ` and writes nothing else. -/
def Obligations.ReservedRequestRaisesFReq : Prop :=
  ∀ (s : State) (req : Request), s.Takes req → (∀ row ∈ opcodeMap, row.selects req = false) →
    ∃ t, step s = .next t ∧ t.seq = .fault .fReq ∧ SameRegisters s t ∧ t.out = s.out ∧ t.rsp = s.rsp ∧
      t.cfg = s.cfg

/-- R123 (decision D13): without reset the fault state lasts through any number of steps, whatever is presented;
no register changes, nothing is taken, emitted or answered. -/
def Obligations.FaultStateIsSticky : Prop :=
  ∀ (n : Nat) (s : State) (code : FaultCode), s.seq = .fault code → NoReset s n →
    ∃ t, run n s = .next t ∧ t.seq = .fault code ∧ SameRegisters s t ∧ t.out = s.out ∧ t.rsp = s.rsp ∧
      t.reqReady = false ∧ t.outValid = false ∧ t.faultLine = true ∧ t.faultCode = some code.toBits

/-- R121, R122: an operation enters the fault state exactly when an operand is out of its legal range; the
fault is precise, and every well-formed operation does not fault. -/
def Obligations.FaultExactlyOnIllFormedOperand : Prop :=
  ∀ (i : Instr) (s : State), s.NoFault →
    ∃ t, exec i s = .next t ∧ ((∃ code, t.seq = .fault code) ↔ i.wf = false) ∧
      (i.wf = false → SameRegisters s t ∧ SameSurroundings s t ∧ t.out = s.out ∧ t.rsp = s.rsp)

/-- R121, R158 (d): while every presented request is well formed no fault state is reached, however long the
run and whatever the time, the sink and the resets do. -/
def Obligations.WellFormedRequestsNeverFault : Prop :=
  ∀ (n : Nat) (s t : State), s.NoFault → WellFormedRequests s n → run n s = .next t → t.NoFault

/-- R121 last part, R70: with only EVT requests (the product) no fault is reachable from reset values. -/
def Obligations.ProductRequestsNeverFault : Prop :=
  ∀ (n : Nat) (s t : State), s.seq = .idle → OnlyEvents s n → run n s = .next t → t.NoFault

/-! ### LOOKUP (40_glyph_table.md) -/

/-- R82: for every `d` in 0..9 and every state `LOOKUP d` responds `(DONE, cfg.GLYPH[d])`, a value below
`2^25`, the same in every state a run reaches; nothing else changes (R80 corner cases). -/
def Obligations.LookupRespondsStableGlyph : Prop :=
  ∀ (d : BitVec 4) (s : State) (h : d.toNat < 10),
    (∃ t, exec (.lookup d) s = .next t ∧ t.rsp = s.rsp ++ [⟨.done, s.cfg.glyph[d.toNat]⟩] ∧
      (s.cfg.glyph[d.toNat]).toNat < 2 ^ 25 ∧ t.seq = .idle ∧ SameRegisters s t ∧ SameSurroundings s t ∧
      t.out = s.out) ∧
    (∀ (n : Nat) (u : State), run n s = .next u →
      ∃ v, exec (.lookup d) u = .next v ∧ v.rsp = u.rsp ++ [⟨.done, s.cfg.glyph[d.toNat]⟩])

/-- R80, R121, R122 (decision D15): `LOOKUP d` with `d >= 10` enters the fault state with `F_DIGIT`; no response. -/
def Obligations.LookupOutOfRangeFaults : Prop :=
  ∀ (d : BitVec 4) (s : State), 10 ≤ d.toNat →
    ∃ t, exec (.lookup d) s = .next t ∧ t.seq = .fault .fDigit ∧ t.faultCode = some 2#2 ∧ SameRegisters s t ∧
      SameSurroundings s t ∧ t.out = s.out ∧ t.rsp = s.rsp

/-! ### CLEAR and SETPX (41_pixel_buffer.md) -/

/-- R85: CLEAR's one encoding (a nonzero reserved bit is `F_REQ`), its effect on every pixel, its response,
its frame; the buffer is then the reset one, so a clear buffer is unchanged, and its frame in mode `W` is 25 zero
words. -/
def Obligations.ClearSetsEveryPixelDark : Prop :=
  encode .clear = 0x2000000000#40 ∧
  (∀ (s : State) (req : Request), s.Takes req → opField req = 2#4 → req ≠ 0x2000000000#40 →
    ∃ t, step s = .next t ∧ t.seq = .fault .fReq) ∧
  (∀ s : State, ∃ t, exec .clear s = .next t ∧ (∀ i : Fin 25, t.pb[i] = ⟨0, 0, 0⟩) ∧
    t.rsp = s.rsp ++ [⟨.done, 0⟩] ∧ t.seq = .idle ∧ t.digit = s.digit ∧ t.lastT = s.lastT ∧ t.out = s.out ∧
    SameSurroundings s t ∧ t.pb = State.reset.pb ∧ frame .packedWord t.pb = List.replicate 25 (.word 0#32))

/-- R86, R21: SETPX with `idx < 25` writes all three channels of that pixel, any values, in the order red, green,
blue, and no other pixel; its response and its frame. -/
def Obligations.SetpxWritesExactlyOnePixel : Prop :=
  ∀ (idx : BitVec 5) (r g b : Channel) (s : State) (h : idx.toNat < 25),
    ∃ t, exec (.setpx idx r g b) s = .next t ∧ t.pb[idx.toNat] = ⟨r, g, b⟩ ∧
      (∀ j : Fin 25, j.val ≠ idx.toNat → t.pb[j] = s.pb[j]) ∧
      t.rsp = s.rsp ++ [⟨.done, 0⟩] ∧ t.seq = .idle ∧ t.digit = s.digit ∧ t.lastT = s.lastT ∧ t.out = s.out ∧
      SameSurroundings s t

/-- R86, R121, R122 (decision D15): SETPX with `idx >= 25` enters the fault state with `F_INDEX` and changes no
pixel: the index is neither reduced nor clamped. -/
def Obligations.SetpxOutOfRangeFaults : Prop :=
  ∀ (idx : BitVec 5) (r g b : Channel) (s : State), 25 ≤ idx.toNat →
    ∃ t, exec (.setpx idx r g b) s = .next t ∧ t.seq = .fault .fIndex ∧ t.faultCode = some 3#2 ∧
      SameRegisters s t ∧ SameSurroundings s t ∧ t.out = s.out ∧ t.rsp = s.rsp

/-! ### RENDER (42_renderer.md) -/

/-- R90 (decision D30: every intensity is legal): RENDER writes every pixel from its pattern bit; its response
and its frame. -/
def Obligations.RenderWritesEveryPixel : Prop :=
  ∀ (pattern : Pattern) (inten : Channel) (s : State),
    ∃ t, exec (.render pattern inten) s = .next t ∧ RenderedAs t.pb pattern inten ∧
      t.rsp = s.rsp ++ [⟨.done, 0⟩] ∧ t.seq = .idle ∧ t.digit = s.digit ∧ t.lastT = s.lastT ∧ t.out = s.out ∧
      SameSurroundings s t

/-- R91: the same request from any two states leaves the same buffer, and no pixel has another colour than
`(I, I, I)` or `(I, 0, 0)`. -/
def Obligations.RenderIsDeterministicInTwoColours : Prop :=
  ∀ (pattern : Pattern) (inten : Channel) (s₁ s₂ t₁ t₂ : State),
    exec (.render pattern inten) s₁ = .next t₁ → exec (.render pattern inten) s₂ = .next t₂ →
    t₁.pb = t₂.pb ∧ ∀ i : Fin 25, t₁.pb[i] = ⟨inten, inten, inten⟩ ∨ t₁.pb[i] = ⟨inten, 0, 0⟩

/-- R87: a render is the 25 SETPX operations with `idx` from 0 to 24, whatever the buffer held before. -/
def Obligations.RenderEqualsTwentyFiveSetpx : Prop :=
  ∀ (pattern : Pattern) (inten : Channel) (s : State),
    ∃ t u, exec (.render pattern inten) s = .next t ∧
      execAll ((List.range 25).map fun i =>
        .setpx (BitVec.ofNat 5 i) inten (if pattern.getLsbD i then inten else 0)
          (if pattern.getLsbD i then inten else 0)) s = .next u ∧
      u.pb = t.pb ∧ u.digit = t.digit ∧ u.lastT = t.lastT ∧ u.seq = t.seq ∧ u.out = t.out

/-! ### The flush (43_serializer.md) -/

/-- R95 to R97 (decision D24): FLUSH.W and FLUSH.B start a flush at pixel 0, phase 0, with no response yet, and
change nothing else. -/
def Obligations.FlushRequestsStartAFlush : Prop :=
  ∀ s : State,
    (∃ t, exec .flushW s = .next t ∧ t.seq = .flush .packedWord 0 0 ∧ SameRegisters s t ∧ SameSurroundings s t ∧
      t.out = s.out ∧ t.rsp = s.rsp ∧ t.reqReady = false ∧ t.outValid = true) ∧
    (∃ t, exec .flushB s = .next t ∧ t.seq = .flush .byteTriplet 0 0 ∧ SameRegisters s t ∧ SameSurroundings s t ∧
      t.out = s.out ∧ t.rsp = s.rsp ∧ t.reqReady = false ∧ t.outValid = true)

/-- R41: the one word a pixel gives in mode `W`, field by field: green in 31..24, red in 23..16, blue in 15..8,
zero in 7..0, each channel's bit 7 its field's most significant. -/
def Obligations.PackedWordLayout : Prop :=
  ∀ (s : State) (fi : Fin 25), s.Emits .packedWord fi 0 →
    ∃ (t : State) (w : PackedWord), step s = .next t ∧ t.out = s.out ++ [.word w] ∧
      w.extractLsb' 24 8 = (s.pb[fi]).g ∧ w.extractLsb' 16 8 = (s.pb[fi]).r ∧ w.extractLsb' 8 8 = (s.pb[fi]).b ∧
      w.extractLsb' 0 8 = 0#8 ∧ w = (s.pb[fi]).g ++ (s.pb[fi]).r ++ (s.pb[fi]).b ++ 0#8 ∧
      SameRegisters s t ∧ t.cfg = s.cfg

/-- R42: in mode `B` a pixel gives three 8-bit units, green, then red, then blue, each the channel unchanged, once. -/
def Obligations.ByteTripletLayout : Prop :=
  ∀ (s : State) (fi : Fin 25), s.seq = .flush .byteTriplet fi 0 → NoReset s 3 → AlwaysReady s 3 →
    ∃ t, run 3 s = .next t ∧
      t.out = s.out ++ [.byte (s.pb[fi]).g, .byte (s.pb[fi]).r, .byte (s.pb[fi]).b] ∧
      (∀ h : fi.val < 24, t.seq = .flush .byteTriplet ⟨fi.val + 1, by omega⟩ 0) ∧ (fi.val = 24 → t.seq = .idle) ∧
      SameRegisters s t ∧ t.cfg = s.cfg

/-- R43: the two modes carry the same 24 bits of a pixel in the same order. -/
def Obligations.BothModesCarryTheSameBits : Prop :=
  ∀ px : Pixel, ∃ w g r b,
    pixelUnits .packedWord px = [.word w] ∧ pixelUnits .byteTriplet px = [.byte g, .byte r, .byte b] ∧
    w.extractLsb' 8 24 = g ++ r ++ b

/-- R98, R99 (decisions D11, D31): the advance of the sequencer in an `emit` step: the next phase of the pixel, the
next pixel, or completion with one response; in mode `W` every unit is the pixel's last. -/
def Obligations.EmitStepAdvances : Prop :=
  ∀ (s : State) (fmode : WireMode) (fi : Fin 25) (fp : Fin 3), s.Emits fmode fi fp →
    ∃ t u, step s = .next t ∧ s.offered = some u ∧ t.out = s.out ++ [u] ∧ SameRegisters s t ∧ t.cfg = s.cfg ∧
      (fmode = .byteTriplet → ∀ h : fp.val < 2,
        t.seq = .flush fmode fi ⟨fp.val + 1, by omega⟩ ∧ t.rsp = s.rsp) ∧
      (fmode = .packedWord ∨ fp.val = 2 → ∀ h : fi.val < 24,
        t.seq = .flush fmode ⟨fi.val + 1, by omega⟩ 0 ∧ t.rsp = s.rsp) ∧
      (fmode = .packedWord ∨ fp.val = 2 → fi.val = 24 →
        t.seq = .idle ∧ t.rsp = s.rsp ++ [⟨.done, 0⟩])

/-- R101: while the sink is not ready the block keeps its place, its registers and the offered unit through any
number of steps and takes nothing; and without reset a flush ends only by handing over its last unit. -/
def Obligations.StalledFlushWaits : Prop :=
  (∀ (n : Nat) (s : State) (fmode : WireMode) (fi : Fin 25) (fp : Fin 3), s.seq = .flush fmode fi fp →
    NoReset s n → (∀ k, k < n → (s.upcoming k).outReady = false) →
    ∃ t, run n s = .next t ∧ t.seq = .flush fmode fi fp ∧ t.offered = s.offered ∧ SameRegisters s t ∧
      t.out = s.out ∧ t.rsp = s.rsp ∧ t.reqReady = false) ∧
  (∀ (s t : State) (fmode : WireMode) (fi : Fin 25) (fp : Fin 3), s.seq = .flush fmode fi fp →
    s.ports.rst = false → step s = .next t → ¬ t.Flushing →
    s.ports.outReady = true ∧ fi.val = 24 ∧ (fmode = .packedWord ∨ fp.val = 2) ∧ t.seq = .idle)

/-- R100, the two lists: the frame's length, and each of its units by position. -/
def Obligations.FrameContents : Prop :=
  ∀ pb : PixelBuffer,
    (frame .packedWord pb).length = 25 ∧ (frame .byteTriplet pb).length = 75 ∧
    ∀ i : Fin 25,
      (frame .packedWord pb)[i.val]? = some (.word ((pb[i]).g ++ (pb[i]).r ++ (pb[i]).b ++ 0#8)) ∧
      (frame .byteTriplet pb)[3 * i.val]? = some (.byte (pb[i]).g) ∧
      (frame .byteTriplet pb)[3 * i.val + 1]? = some (.byte (pb[i]).r) ∧
      (frame .byteTriplet pb)[3 * i.val + 2]? = some (.byte (pb[i]).b)

/-- R100, R99: a flush that starts with `OUT = h` and `PB = P` and runs to completion, with any stalls and whatever
is presented meanwhile, leaves `OUT = h ++ frame(mode, P)`, `PB = P` and exactly one response. -/
def Obligations.CompletedFlushEmitsExactlyItsFrame : Prop :=
  ∀ (s t : State) (fmode : WireMode) (n : Nat), s.seq = .flush fmode 0 0 → NoReset s n → FlushEndsIn s n t →
    t.out = s.out ++ frame fmode s.pb ∧ t.rsp = s.rsp ++ [⟨.done, 0⟩] ∧ SameRegisters s t ∧ t.cfg = s.cfg

/-- R138, R159 (decision D19): a flush at any position completes once the sink has been ready often enough: within
any stretch of steps without reset in which the sink is ready at least a frame's length of times. -/
def Obligations.FlushCompletesUnderReadySink : Prop :=
  ∀ (s : State) (fmode : WireMode) (fi : Fin 25) (fp : Fin 3) (n : Nat), s.seq = .flush fmode fi fp →
    NoReset s n → frameLength fmode ≤ readyCount s n →
    ∃ m t, m ≤ n ∧ FlushEndsIn s m t

/-- R96, R97, R99: with the sink always ready a flush takes exactly 25 (mode `W`) or 75 (mode `B`) `emit` steps. -/
def Obligations.UnstalledFlushTakesFrameLengthSteps : Prop :=
  ∀ (s : State) (fmode : WireMode), s.seq = .flush fmode 0 0 → NoReset s (frameLength fmode) →
    AlwaysReady s (frameLength fmode) → ∃ t, FlushEndsIn s (frameLength fmode) t

/-- R33, R51, R98: every step keeps the invariant of a flush in progress. -/
def Obligations.StepKeepsFlushInvariant : Prop :=
  ∀ s t : State, FlushInv s → step s = .next t → FlushInv t

/-- The invariant of a flush holds after the power-on reset (R32). -/
def Obligations.ResetMeetsFlushInvariant : Prop := FlushInv State.reset

/-! ### The debounce (44_debounce.md) -/

/-- R106: the guard rejects exactly `elapsed <= 50`, the modular difference, for either button and whatever the
digit; a rejected event must not change the digit and an accepted one must. -/
def Obligations.GuardRejectsUpToFiftyMs : Prop :=
  ∀ (s : State) (i : Instr) (d' : Fin 10), MovesDigit i s.digit d' →
    (elapsedMs s.ports.now s.lastT ≤ 50 →
      ∃ t, exec i s = .next t ∧ SameRegisters s t ∧ t.seq = .idle ∧ t.out = s.out ∧
        t.rsp = s.rsp ++ [⟨.rejected, 0⟩]) ∧
    (50 < elapsedMs s.ports.now s.lastT →
      ∃ t, exec i s = .next t ∧ t.lastT = s.ports.now ∧ t.digit = d' ∧ t.digit ≠ s.digit)

/-- R107, R110: an accepted EVT.INC, in one step: the next digit modulo 10, the timer, the buffer rendered from the
new digit's glyph at the configured intensity, the flush of the configured mode started, no response yet. -/
def Obligations.AcceptedIncrement : Prop :=
  encode .evtInc = 0x6000000000#40 ∧
  ∀ s : State, 50 < elapsedMs s.ports.now s.lastT →
    ∃ t, exec .evtInc s = .next t ∧ t.digit.val = (s.digit.val + 1) % 10 ∧ t.lastT = s.ports.now ∧
      RenderedAs t.pb s.cfg.glyph[t.digit] s.cfg.intensity ∧ t.seq = .flush s.cfg.wireMode 0 0 ∧
      t.out = s.out ∧ t.rsp = s.rsp ∧ SameSurroundings s t

/-- R108, R110: an accepted EVT.DEC, as `AcceptedIncrement` with the digit before, modulo 10. -/
def Obligations.AcceptedDecrement : Prop :=
  encode .evtDec = 0x6000000001#40 ∧
  ∀ s : State, 50 < elapsedMs s.ports.now s.lastT →
    ∃ t, exec .evtDec s = .next t ∧ t.digit.val = (s.digit.val + 9) % 10 ∧ t.lastT = s.ports.now ∧
      RenderedAs t.pb s.cfg.glyph[t.digit] s.cfg.intensity ∧ t.seq = .flush s.cfg.wireMode 0 0 ∧
      t.out = s.out ∧ t.rsp = s.rsp ∧ SameSurroundings s t

/-- R109 (decision D32): EVT.RISE of either button is ignored inside and outside the window: no register changes,
nothing is emitted, the response is `IGNORED`, and the time port is not read. -/
def Obligations.RisingEdgeIsIgnored : Prop :=
  ∀ (src : Source) (s : State),
    (∃ t, exec (.evtRise src) s = .next t ∧ t.rsp = s.rsp ++ [⟨.ignored, 0⟩] ∧ t.seq = .idle ∧
      SameRegisters s t ∧ SameSurroundings s t ∧ t.out = s.out) ∧
    (∀ (p : PortInputs) (rest : List PortInputs) (now : Timestamp), s.inputs = p :: rest → p.rst = false →
      s.seq = .idle → p.req = some (encode (.evtRise src)) →
      step { s with inputs := { p with now := now } :: rest } = step s)

/-- R111: one timer for both buttons: after an accepted event of either button, an event of either button is
rejected while at most 50 ms have passed since it, whatever else has changed meanwhile. -/
def Obligations.OneTimerForBothButtons : Prop :=
  ∀ (i j : Instr) (s t u : State) (d e : Fin 10), MovesDigit i s.digit d → MovesDigit j u.digit e →
    50 < elapsedMs s.ports.now s.lastT → exec i s = .next t → u.lastT = t.lastT →
    elapsedMs u.ports.now s.ports.now ≤ 50 →
    ∃ v, exec j u = .next v ∧ SameRegisters u v ∧ v.out = u.out ∧ v.rsp = u.rsp ++ [⟨.rejected, 0⟩]

/-- R124: a rejected bounce and an ignored rising edge are no faults: the response, every register unchanged, IDLE,
ready for the next request. -/
def Obligations.BounceIsNotAFault : Prop :=
  ∀ (s : State) (i : Instr), s.Takes (encode i) →
    ((i = .evtInc ∨ i = .evtDec) ∧ elapsedMs s.ports.now s.lastT ≤ 50 →
      ∃ t, step s = .next t ∧ t.rsp = s.rsp ++ [⟨.rejected, 0⟩] ∧ SameRegisters s t ∧ t.out = s.out ∧
        t.seq = .idle ∧ t.faultLine = false ∧ t.reqReady = true) ∧
    ((∃ src, i = .evtRise src) →
      ∃ t, step s = .next t ∧ t.rsp = s.rsp ++ [⟨.ignored, 0⟩] ∧ SameRegisters s t ∧ t.out = s.out ∧
        t.seq = .idle ∧ t.faultLine = false ∧ t.reqReady = true)

/-- R112, the four rows: an accepted event, from the step that takes it to the end of its flush, with any stalls and
whatever the old buffer held; a rejected one; an ignored one. -/
def Obligations.EventOutcomes : Prop :=
  ∀ (s : State) (i : Instr), s.Takes (encode i) →
    (∀ (d' : Fin 10) (u t : State) (n : Nat), MovesDigit i s.digit d' → 50 < elapsedMs s.ports.now s.lastT →
      NoReset s (n + 1) → step s = .next u → FlushEndsIn u n t →
      t.digit = d' ∧ t.lastT = s.ports.now ∧ RenderedAs t.pb s.cfg.glyph[d'] s.cfg.intensity ∧
      t.out = s.out ++ frame s.cfg.wireMode t.pb ∧ t.rsp = s.rsp ++ [⟨.done, 0⟩]) ∧
    (∀ d' : Fin 10, MovesDigit i s.digit d' → elapsedMs s.ports.now s.lastT ≤ 50 →
      ∃ t, step s = .next t ∧ SameRegisters s t ∧ t.out = s.out ∧ t.rsp = s.rsp ++ [⟨.rejected, 0⟩]) ∧
    (∀ src, i = .evtRise src →
      ∃ t, step s = .next t ∧ SameRegisters s t ∧ t.out = s.out ∧ t.rsp = s.rsp ++ [⟨.ignored, 0⟩])

/-- R110, R71, 95_test_vectors.md P4: on the buffer, the sequencer and the output an accepted event is RENDER of the new
digit's glyph at the configured intensity, then the flush of the configured mode. -/
def Obligations.AcceptedEventEqualsDirectOperations : Prop :=
  ∀ (s t : State) (i : Instr) (d' : Fin 10), MovesDigit i s.digit d' → 50 < elapsedMs s.ports.now s.lastT →
    exec i s = .next t →
    ∃ u, execAll [.render s.cfg.glyph[d'] s.cfg.intensity,
        (match s.cfg.wireMode with | .packedWord => .flushW | .byteTriplet => .flushB)] s = .next u ∧
      u.pb = t.pb ∧ u.seq = t.seq ∧ u.out = t.out

/-- R113 (decision D8): right after reset an event with `now <= 50` is rejected and one with `now >= 51` accepted,
displaying digit 1 or digit 9 first (R152). -/
def Obligations.FirstEventAfterReset : Prop :=
  ∀ (p : PortInputs) (rest : List PortInputs) (i : Instr) (d' : Fin 10),
    p.rst = false → p.req = some (encode i) → MovesDigit i 0 d' →
    ∃ t, step { State.reset with inputs := p :: rest } = .next t ∧
      (p.now.toNat ≤ 50 → t.digit = 0 ∧ t.lastT = 0 ∧ t.seq = .idle ∧ t.rsp = [⟨.rejected, 0⟩]) ∧
      (51 ≤ p.now.toNat → t.digit = d' ∧ (d' = 1 ∨ d' = 9) ∧ t.lastT = p.now ∧ t.outValid = true ∧
        RenderedAs t.pb t.cfg.glyph[d'] t.cfg.intensity)

/-- R139: under monotonic time the subtraction of the guard never wraps in any guard evaluation of a run. The
values sampled before the run are `LAST_T` at its start, so the second premise is monotonic time across the
start; with `LAST_T = 0` (after reset) it holds of itself. -/
def Obligations.MonotonicTimeNeverWraps : Prop :=
  ∀ (n : Nat) (s : State), MonotonicTime s n →
    (∀ (k : Nat) (u : State), k < n → run k s = .next u → u.SamplesTime → s.lastT.toNat ≤ u.ports.now.toNat) →
    ∀ (k : Nat) (t : State), k < n → run k s = .next t → t.SamplesTime →
      t.lastT.toNat ≤ t.ports.now.toNat ∧ (elapsed t.ports.now t.lastT).toNat = t.ports.now.toNat - t.lastT.toNat

/-- R33, R23: `LAST_T` is what it was where the run began, or 0 left by a step of the run with `rst = 1`, or the `now`
that a step of the run sampled, the `take` step of an EVT.INC or EVT.DEC that the guard accepted. -/
def Obligations.TimerHoldsASampledTime : Prop :=
  ∀ (n : Nat) (s t : State), run n s = .next t →
    t.lastT = s.lastT ∨
    (t.lastT = 0 ∧ ∃ k u, k < n ∧ run k s = .next u ∧ u.ports.rst = true) ∨
    (∃ k u, k < n ∧ run k s = .next u ∧ u.SamplesTime ∧ 50 < elapsedMs u.ports.now u.lastT ∧
      t.lastT = u.ports.now)

/-! ### Whole-machine rules -/

/-- R22, R23: without reset only the `take` step of an accepted EVT.INC or EVT.DEC writes `DIGIT` or `LAST_T`, and it
writes both, starting the flush of the new image in the same step. -/
def Obligations.OnlyAcceptedEventsWriteDigitAndTimer : Prop :=
  ∀ s t : State, s.ports.rst = false → step s = .next t → (t.digit ≠ s.digit ∨ t.lastT ≠ s.lastT) →
    s.seq = .idle ∧ (∃ i, s.ports.req = some (encode i) ∧ MovesDigit i s.digit t.digit) ∧
    50 < elapsedMs s.ports.now s.lastT ∧ t.lastT = s.ports.now ∧ t.digit ≠ s.digit ∧
    t.seq = .flush s.cfg.wireMode 0 0 ∧ RenderedAs t.pb s.cfg.glyph[t.digit] s.cfg.intensity

/-- R21, R51, R154: without reset the Pixel Buffer is written only by a `take` step of CLEAR, SETPX, RENDER or an
accepted event: never while a flush is in progress. -/
def Obligations.PixelBufferWriters : Prop :=
  ∀ s t : State, s.ports.rst = false → step s = .next t → t.pb ≠ s.pb →
    s.seq = .idle ∧ ∃ i, s.ports.req = some (encode i) ∧ i.wf = true ∧
      (i = .clear ∨ (∃ idx r g b, i = .setpx idx r g b) ∨ (∃ pattern inten, i = .render pattern inten) ∨
        ((i = .evtInc ∨ i = .evtDec) ∧ 50 < elapsedMs s.ports.now s.lastT))

/-- R46, R47, R98: a step in which the sink takes the offered unit appends exactly that unit and advances the position
in the frame by one, to the end of the flush after the frame's last unit; a step in which the sink does not take it
keeps the position and the offered unit; every other step appends nothing. So no unit of a frame is dropped,
duplicated or reordered. -/
def Obligations.UnitsAreHandedOverExactlyOnce : Prop :=
  ∀ s t : State, step s = .next t →
    (∀ fmode fi fp, s.ports.rst = false → s.seq = .flush fmode fi fp →
      (s.ports.outReady = true →
        (∃ u, s.offered = some u ∧ t.out = s.out ++ [u]) ∧
        ((∃ fi' fp', t.seq = .flush fmode fi' fp' ∧
            framePosition fmode fi' fp' = framePosition fmode fi fp + 1) ∨
          (t.seq = .idle ∧ framePosition fmode fi fp + 1 = frameLength fmode))) ∧
      (s.ports.outReady = false → t.seq = s.seq ∧ t.offered = s.offered)) ∧
    (¬ (s.ports.rst = false ∧ s.outValid = true ∧ s.ports.outReady = true) → t.out = s.out)

/-- R67 (decision D4): without reset a step produces at most one response, and produces one exactly when it brings an
operation to its end in IDLE. -/
def Obligations.OneResponsePerCompletedOperation : Prop :=
  ∀ s t : State, s.ports.rst = false → step s = .next t →
    (t.rsp = s.rsp ∨ ∃ r, t.rsp = s.rsp ++ [r] ∧ stepResponse s t = some r) ∧
    ((∃ r, stepResponse s t = some r) ↔ t.seq = .idle ∧ ¬ (s.seq = .idle ∧ s.ports.req = none))

/-- R34: no rule reads the ghost histories: with other histories the step writes the same registers and appends
the same units and responses. -/
def Obligations.GhostHistoriesAreNotRead : Prop :=
  ∀ (s t : State) (out : List OutUnit) (rsp : List Response), step s = .next t →
    ∃ t', step { s with out := out, rsp := rsp } = .next t' ∧ SameRegisters t t' ∧ SameSurroundings t t' ∧
      t'.seq = t.seq ∧ ∃ us rs, t.out = s.out ++ us ∧ t'.out = out ++ us ∧ t.rsp = s.rsp ++ rs ∧ t'.rsp = rsp ++ rs

/-- R50 (b), R56: without reset a run from IDLE appends the frames of the flushes it started, each of the mode and the
buffer its flush started with, in the order in which their requests were taken, with nothing between them; while a
flush is in progress, which is then the last one started and still has its buffer, only the part of its frame up to
the position. -/
def Obligations.OutputIsFramesInOrder : Prop :=
  ∀ (n : Nat) (s t : State), s.seq = .idle → NoReset s n → run n s = .next t →
    (¬ t.Flushing → t.out = s.out ++ (flushesStarted n s).flatMap fun f => frame f.1 f.2) ∧
    (∀ fmode fi fp, t.seq = .flush fmode fi fp →
      ∃ ended, flushesStarted n s = ended ++ [(fmode, t.pb)] ∧
        t.out = s.out ++ (ended.flatMap fun f => frame f.1 f.2) ++
          (frame fmode t.pb).take (framePosition fmode fi fp))

/-- R110, R70, R112: in the product (only EVT requests) the buffer is, in every state a run reaches, either still the
reset one with `DIGIT = 0` or the rendering of the CURRENT digit's glyph at the configured intensity: there is no
state in which `DIGIT` is new and `PB` shows the old digit. -/
def Obligations.ProductBufferShowsCurrentDigit : Prop :=
  ShowsDigit State.reset ∧
  ∀ (n : Nat) (s t : State), ShowsDigit s → OnlyEvents s n → run n s = .next t → ShowsDigit t

/-! ### Under the sink's duty (60_exceptions.md R138, 70_reset_and_hazards.md R159) -/

/-- R138, R159 (decision D19): under the sink's duty alone, with no bound on a stall, a flush at any position
completes unless a reset comes. -/
def Obligations.WeaklyFairSinkCompletesTheFlush : Prop :=
  ∀ (s : State) (fmode : WireMode) (fi : Fin 25) (fp : Fin 3), s.seq = .flush fmode fi fp →
    NoResetDuringFlush s → SinkWeaklyFair s → ∃ n t, FlushEndsIn s n t

/-- R159, R128 (decisions D16, D19): under the sink's duty a request that is presented and held is taken, from any
state but the fault state: at once in IDLE, else in the step after the flush in progress, and no other request
before it. -/
def Obligations.HeldRequestIsTaken : Prop :=
  ∀ (s : State) (req : Request), s.NoFault → SinkWeaklyFair s → HoldsRequest s req →
    ∃ n t, run n s = .next t ∧ t.Takes req ∧ FlushLasts s n
end

