-- ==== Sys2Proof/Laws/Decode.lean ====
section
/-! SUPPORT. Bit fields of request words: splitting a word into its fields, reading a field of a concatenation,
and comparing under a mask of high bits. -/

namespace Sys2Proof

/-- A request word is the concatenation of the fields of format G or E or F or N at a cut `k` (R62). -/
theorem request_split_low (req : Request) (k n : Nat) (h : 36 = k + n) :
    req = (req.extractLsb' 36 4 ++ req.extractLsb' k n ++ req.extractLsb' 0 k).cast (by omega) := by
  have hk : k = 0 + k := by omega
  rw [BitVec.extractLsb'_append_extractLsb'_eq_extractLsb' h,
    BitVec.extractLsb'_append_extractLsb'_eq_extractLsb' hk]
  have : 4 + n + k = 40 := by omega
  ext i hi
  simp [BitVec.getLsbD_eq_getElem, hi]

/-- A request word is the concatenation of the fields of format P (R62). -/
theorem request_formatP (req : Request) :
    req = req.extractLsb' 36 4 ++ req.extractLsb' 29 7 ++ req.extractLsb' 24 5 ++ req.extractLsb' 16 8 ++
      req.extractLsb' 8 8 ++ req.extractLsb' 0 8 := by
  rw [BitVec.extractLsb'_append_extractLsb'_eq_extractLsb' (by decide : 36 = 29 + 7),
    BitVec.extractLsb'_append_extractLsb'_eq_extractLsb' (by decide : 29 = 24 + 5),
    BitVec.extractLsb'_append_extractLsb'_eq_extractLsb' (by decide : 24 = 16 + 8),
    BitVec.extractLsb'_append_extractLsb'_eq_extractLsb' (by decide : 16 = 8 + 8),
    BitVec.extractLsb'_append_extractLsb'_eq_extractLsb' (by decide : 8 = 0 + 8), BitVec.extractLsb'_eq_self]

/-- A request word is the concatenation of the fields of format R (R62). -/
theorem request_formatR (req : Request) :
    req = req.extractLsb' 36 4 ++ req.extractLsb' 33 3 ++ req.extractLsb' 25 8 ++ req.extractLsb' 0 25 := by
  rw [BitVec.extractLsb'_append_extractLsb'_eq_extractLsb' (by decide : 36 = 33 + 3),
    BitVec.extractLsb'_append_extractLsb'_eq_extractLsb' (by decide : 33 = 25 + 8),
    BitVec.extractLsb'_append_extractLsb'_eq_extractLsb' (by decide : 25 = 0 + 25), BitVec.extractLsb'_eq_self]

/-- A word agrees with `m` above bit `k` exactly when its part from bit `k` on is `m`. -/
theorem masked_eq_iff {k n : Nat} (w : BitVec (n + k)) (m : BitVec n) :
    w &&& (BitVec.allOnes (n + k) <<< k) = m ++ 0#k ↔ w.extractLsb' k n = m := by
  constructor
  · intro h
    ext i hi
    have := congrArg (fun v => v.getLsbD (k + i)) h
    simpa [BitVec.getElem_append, BitVec.getLsbD_eq_getElem, hi, show k + i < n + k by omega,
      show i < n + k by omega] using this
  · rintro rfl
    ext i hi
    simp [BitVec.getElem_append]
    by_cases h : i < k <;> simp [h]
    have : k + (i - k) = i := by omega
    simp [BitVec.getLsbD_eq_getElem, *]

/-- A row whose mask covers the bits from `k` on selects a word exactly when that part of the word is `m`. -/
theorem selects_iff {k n : Nat} (w mask pat : BitVec (n + k)) (m : BitVec n)
    (hmask : mask = BitVec.allOnes (n + k) <<< k) (hpat : pat = m ++ 0#k) :
    w &&& mask = pat ↔ w.extractLsb' k n = m := by
  subst hmask hpat; exact masked_eq_iff w m

/-- LOOKUP's row, as a condition on bits 39..4 (R64). -/
theorem lookupRow_iff (req : Request) :
    req &&& 0xFFFFFFFFF0#40 = 0x1000000000#40 ↔ req.extractLsb' 4 36 = 0x100000000#36 :=
  selects_iff (k := 4) (n := 36) req _ _ _ (by decide) (by decide)

/-- SETPX's row, as a condition on bits 39..29 (R64). -/
theorem setpxRow_iff (req : Request) :
    req &&& 0xFFE0000000#40 = 0x3000000000#40 ↔ req.extractLsb' 29 11 = 0x180#11 :=
  selects_iff (k := 29) (n := 11) req _ _ _ (by decide) (by decide)

/-- RENDER's row, as a condition on bits 39..33 (R64). -/
theorem renderRow_iff (req : Request) :
    req &&& 0xFE00000000#40 = 0x4000000000#40 ↔ req.extractLsb' 33 7 = 0x20#7 :=
  selects_iff (k := 33) (n := 7) req _ _ _ (by decide) (by decide)

/-- EVT.RISE's row, as a condition on bits 39..1 (R64). -/
theorem riseRow_iff (req : Request) :
    req &&& 0xFFFFFFFFFE#40 = 0x6000000002#40 ↔ req.extractLsb' 1 39 = 0x3000000001#39 :=
  selects_iff (k := 1) (n := 39) req _ _ _ (by decide) (by decide)

/-- The rows whose mask is all ones select one word (R64). -/
theorem fullRow_iff (req pat : Request) : req &&& 0xFFFFFFFFFF#40 = pat ↔ req = pat := by
  have : (0xFFFFFFFFFF#40 : Request) = BitVec.allOnes 40 := by decide
  rw [this, BitVec.and_allOnes]

/-- Bits 39..29 of an encoded SETPX (R62). -/
theorem encode_setpx_high (idx : BitVec 5) (r g b : Channel) :
    (encode (.setpx idx r g b)).extractLsb' 29 11 = 0x180#11 := by
  simp (disch := omega) only [encode, BitVec.extractLsb'_append_eq_of_le]
  decide

/-- Bits 39..33 of an encoded RENDER (R62). -/
theorem encode_render_high (pattern : Pattern) (inten : Channel) :
    (encode (.render pattern inten)).extractLsb' 33 7 = 0x20#7 := by
  simp (disch := omega) only [encode, BitVec.extractLsb'_append_eq_of_le]
  decide

end Sys2Proof
end

