-- ==== Sys2Proof/Laws/State.lean ====
section
/-! SUPPORT. One lemma per field of State and per update of it, each true by unfolding the update once. -/

namespace Sys2Proof.Machine

/-! ### setSeq -/

@[simp] theorem setSeq_pb (target : Seq) (s : State) : (setSeq target s).pb = s.pb := rfl
@[simp] theorem setSeq_digit (target : Seq) (s : State) : (setSeq target s).digit = s.digit := rfl
@[simp] theorem setSeq_lastT (target : Seq) (s : State) : (setSeq target s).lastT = s.lastT := rfl
@[simp] theorem setSeq_seq (target : Seq) (s : State) : (setSeq target s).seq = target := rfl
@[simp] theorem setSeq_out (target : Seq) (s : State) : (setSeq target s).out = s.out := rfl
@[simp] theorem setSeq_rsp (target : Seq) (s : State) : (setSeq target s).rsp = s.rsp := rfl
@[simp] theorem setSeq_cfg (target : Seq) (s : State) : (setSeq target s).cfg = s.cfg := rfl
@[simp] theorem setSeq_inputs (target : Seq) (s : State) : (setSeq target s).inputs = s.inputs := rfl
@[simp] theorem setSeq_tick (target : Seq) (s : State) : (setSeq target s).tick = s.tick := rfl

/-! ### finish -/

@[simp] theorem finish_pb (status : Status) (value : Pattern) (s : State) : (finish status value s).pb = s.pb := rfl
@[simp] theorem finish_digit (status : Status) (value : Pattern) (s : State) : (finish status value s).digit = s.digit := rfl
@[simp] theorem finish_lastT (status : Status) (value : Pattern) (s : State) : (finish status value s).lastT = s.lastT := rfl
@[simp] theorem finish_seq (status : Status) (value : Pattern) (s : State) : (finish status value s).seq = .idle := rfl
@[simp] theorem finish_out (status : Status) (value : Pattern) (s : State) : (finish status value s).out = s.out := rfl
@[simp] theorem finish_rsp (status : Status) (value : Pattern) (s : State) : (finish status value s).rsp = s.rsp ++ [⟨status, value⟩] := rfl
@[simp] theorem finish_cfg (status : Status) (value : Pattern) (s : State) : (finish status value s).cfg = s.cfg := rfl
@[simp] theorem finish_inputs (status : Status) (value : Pattern) (s : State) : (finish status value s).inputs = s.inputs := rfl
@[simp] theorem finish_tick (status : Status) (value : Pattern) (s : State) : (finish status value s).tick = s.tick := rfl

/-! ### emit -/

@[simp] theorem emit_pb (unit : OutUnit) (s : State) : (emit unit s).pb = s.pb := rfl
@[simp] theorem emit_digit (unit : OutUnit) (s : State) : (emit unit s).digit = s.digit := rfl
@[simp] theorem emit_lastT (unit : OutUnit) (s : State) : (emit unit s).lastT = s.lastT := rfl
@[simp] theorem emit_seq (unit : OutUnit) (s : State) : (emit unit s).seq = s.seq := rfl
@[simp] theorem emit_out (unit : OutUnit) (s : State) : (emit unit s).out = s.out ++ [unit] := rfl
@[simp] theorem emit_rsp (unit : OutUnit) (s : State) : (emit unit s).rsp = s.rsp := rfl
@[simp] theorem emit_cfg (unit : OutUnit) (s : State) : (emit unit s).cfg = s.cfg := rfl
@[simp] theorem emit_inputs (unit : OutUnit) (s : State) : (emit unit s).inputs = s.inputs := rfl
@[simp] theorem emit_tick (unit : OutUnit) (s : State) : (emit unit s).tick = s.tick := rfl

/-! ### pbufWrite -/

@[simp] theorem pbufWrite_pb (i : Fin 25) (px : Pixel) (s : State) : (pbufWrite i px s).pb = s.pb.set i px := rfl
@[simp] theorem pbufWrite_digit (i : Fin 25) (px : Pixel) (s : State) : (pbufWrite i px s).digit = s.digit := rfl
@[simp] theorem pbufWrite_lastT (i : Fin 25) (px : Pixel) (s : State) : (pbufWrite i px s).lastT = s.lastT := rfl
@[simp] theorem pbufWrite_seq (i : Fin 25) (px : Pixel) (s : State) : (pbufWrite i px s).seq = s.seq := rfl
@[simp] theorem pbufWrite_out (i : Fin 25) (px : Pixel) (s : State) : (pbufWrite i px s).out = s.out := rfl
@[simp] theorem pbufWrite_rsp (i : Fin 25) (px : Pixel) (s : State) : (pbufWrite i px s).rsp = s.rsp := rfl
@[simp] theorem pbufWrite_cfg (i : Fin 25) (px : Pixel) (s : State) : (pbufWrite i px s).cfg = s.cfg := rfl
@[simp] theorem pbufWrite_inputs (i : Fin 25) (px : Pixel) (s : State) : (pbufWrite i px s).inputs = s.inputs := rfl
@[simp] theorem pbufWrite_tick (i : Fin 25) (px : Pixel) (s : State) : (pbufWrite i px s).tick = s.tick := rfl

/-! ### pbufWriteAll -/

@[simp] theorem pbufWriteAll_pb (pb : PixelBuffer) (s : State) : (pbufWriteAll pb s).pb = pb := rfl
@[simp] theorem pbufWriteAll_digit (pb : PixelBuffer) (s : State) : (pbufWriteAll pb s).digit = s.digit := rfl
@[simp] theorem pbufWriteAll_lastT (pb : PixelBuffer) (s : State) : (pbufWriteAll pb s).lastT = s.lastT := rfl
@[simp] theorem pbufWriteAll_seq (pb : PixelBuffer) (s : State) : (pbufWriteAll pb s).seq = s.seq := rfl
@[simp] theorem pbufWriteAll_out (pb : PixelBuffer) (s : State) : (pbufWriteAll pb s).out = s.out := rfl
@[simp] theorem pbufWriteAll_rsp (pb : PixelBuffer) (s : State) : (pbufWriteAll pb s).rsp = s.rsp := rfl
@[simp] theorem pbufWriteAll_cfg (pb : PixelBuffer) (s : State) : (pbufWriteAll pb s).cfg = s.cfg := rfl
@[simp] theorem pbufWriteAll_inputs (pb : PixelBuffer) (s : State) : (pbufWriteAll pb s).inputs = s.inputs := rfl
@[simp] theorem pbufWriteAll_tick (pb : PixelBuffer) (s : State) : (pbufWriteAll pb s).tick = s.tick := rfl

/-! ### startFlush -/

@[simp] theorem startFlush_pb (mode : WireMode) (s : State) : (startFlush mode s).pb = s.pb := rfl
@[simp] theorem startFlush_digit (mode : WireMode) (s : State) : (startFlush mode s).digit = s.digit := rfl
@[simp] theorem startFlush_lastT (mode : WireMode) (s : State) : (startFlush mode s).lastT = s.lastT := rfl
@[simp] theorem startFlush_seq (mode : WireMode) (s : State) : (startFlush mode s).seq = .flush mode 0 0 := rfl
@[simp] theorem startFlush_out (mode : WireMode) (s : State) : (startFlush mode s).out = s.out := rfl
@[simp] theorem startFlush_rsp (mode : WireMode) (s : State) : (startFlush mode s).rsp = s.rsp := rfl
@[simp] theorem startFlush_cfg (mode : WireMode) (s : State) : (startFlush mode s).cfg = s.cfg := rfl
@[simp] theorem startFlush_inputs (mode : WireMode) (s : State) : (startFlush mode s).inputs = s.inputs := rfl
@[simp] theorem startFlush_tick (mode : WireMode) (s : State) : (startFlush mode s).tick = s.tick := rfl

/-! ### raiseFault -/

@[simp] theorem raiseFault_pb (code : FaultCode) (s : State) : (raiseFault code s).pb = s.pb := rfl
@[simp] theorem raiseFault_digit (code : FaultCode) (s : State) : (raiseFault code s).digit = s.digit := rfl
@[simp] theorem raiseFault_lastT (code : FaultCode) (s : State) : (raiseFault code s).lastT = s.lastT := rfl
@[simp] theorem raiseFault_seq (code : FaultCode) (s : State) : (raiseFault code s).seq = .fault code := rfl
@[simp] theorem raiseFault_out (code : FaultCode) (s : State) : (raiseFault code s).out = s.out := rfl
@[simp] theorem raiseFault_rsp (code : FaultCode) (s : State) : (raiseFault code s).rsp = s.rsp := rfl
@[simp] theorem raiseFault_cfg (code : FaultCode) (s : State) : (raiseFault code s).cfg = s.cfg := rfl
@[simp] theorem raiseFault_inputs (code : FaultCode) (s : State) : (raiseFault code s).inputs = s.inputs := rfl
@[simp] theorem raiseFault_tick (code : FaultCode) (s : State) : (raiseFault code s).tick = s.tick := rfl

/-! ### resetRegisters -/

@[simp] theorem resetRegisters_pb (s : State) : (resetRegisters s).pb = clearBuffer := rfl
@[simp] theorem resetRegisters_digit (s : State) : (resetRegisters s).digit = 0 := rfl
@[simp] theorem resetRegisters_lastT (s : State) : (resetRegisters s).lastT = 0 := rfl
@[simp] theorem resetRegisters_seq (s : State) : (resetRegisters s).seq = .idle := rfl
@[simp] theorem resetRegisters_out (s : State) : (resetRegisters s).out = s.out := rfl
@[simp] theorem resetRegisters_rsp (s : State) : (resetRegisters s).rsp = s.rsp := rfl
@[simp] theorem resetRegisters_cfg (s : State) : (resetRegisters s).cfg = s.cfg := rfl
@[simp] theorem resetRegisters_inputs (s : State) : (resetRegisters s).inputs = s.inputs := rfl
@[simp] theorem resetRegisters_tick (s : State) : (resetRegisters s).tick = s.tick := rfl

/-! ### acceptEvent -/

@[simp] theorem acceptEvent_pb (digit : Fin 10) (now : Timestamp) (s : State) : (acceptEvent digit now s).pb = renderBuffer s.cfg.glyph[digit] s.cfg.intensity := rfl
@[simp] theorem acceptEvent_digit (digit : Fin 10) (now : Timestamp) (s : State) : (acceptEvent digit now s).digit = digit := rfl
@[simp] theorem acceptEvent_lastT (digit : Fin 10) (now : Timestamp) (s : State) : (acceptEvent digit now s).lastT = now := rfl
@[simp] theorem acceptEvent_seq (digit : Fin 10) (now : Timestamp) (s : State) : (acceptEvent digit now s).seq = .flush s.cfg.wireMode 0 0 := rfl
@[simp] theorem acceptEvent_out (digit : Fin 10) (now : Timestamp) (s : State) : (acceptEvent digit now s).out = s.out := rfl
@[simp] theorem acceptEvent_rsp (digit : Fin 10) (now : Timestamp) (s : State) : (acceptEvent digit now s).rsp = s.rsp := rfl
@[simp] theorem acceptEvent_cfg (digit : Fin 10) (now : Timestamp) (s : State) : (acceptEvent digit now s).cfg = s.cfg := rfl
@[simp] theorem acceptEvent_inputs (digit : Fin 10) (now : Timestamp) (s : State) : (acceptEvent digit now s).inputs = s.inputs := rfl
@[simp] theorem acceptEvent_tick (digit : Fin 10) (now : Timestamp) (s : State) : (acceptEvent digit now s).tick = s.tick := rfl

/-! ### advance -/

@[simp] theorem State.advance_pb (s : State) : s.advance.pb = s.pb := by
  unfold State.advance; split <;> rfl
@[simp] theorem State.advance_digit (s : State) : s.advance.digit = s.digit := by
  unfold State.advance; split <;> rfl
@[simp] theorem State.advance_lastT (s : State) : s.advance.lastT = s.lastT := by
  unfold State.advance; split <;> rfl
@[simp] theorem State.advance_seq (s : State) : s.advance.seq = s.seq := by
  unfold State.advance; split <;> rfl
@[simp] theorem State.advance_out (s : State) : s.advance.out = s.out := by
  unfold State.advance; split <;> rfl
@[simp] theorem State.advance_rsp (s : State) : s.advance.rsp = s.rsp := by
  unfold State.advance; split <;> rfl
@[simp] theorem State.advance_cfg (s : State) : s.advance.cfg = s.cfg := by
  unfold State.advance; split <;> rfl

end Sys2Proof.Machine
end

