-- ==== Sys2Proof/Laws/Ops.lean ====
section
/-! SUPPORT. What each shared operation, each meaning and each step can do, said once: the guard, the rendering,
the packed word, the environment's inputs, runs, and the inversion of `exec` and of `step`. -/

namespace Sys2Proof.Machine

/-! ### Operands and the guard -/

theorem digitOperand_some {d : BitVec 4} (h : d.toNat < 10) : digitOperand d = some ⟨d.toNat, h⟩ := by
  simp [digitOperand, h]

theorem digitOperand_none {d : BitVec 4} (h : 10 ≤ d.toNat) : digitOperand d = none := by
  simp [digitOperand, Nat.not_lt.mpr h]

theorem indexOperand_some {idx : BitVec 5} (h : idx.toNat < 25) : indexOperand idx = some ⟨idx.toNat, h⟩ := by
  simp [indexOperand, h]

theorem indexOperand_none {idx : BitVec 5} (h : 25 ≤ idx.toNat) : indexOperand idx = none := by
  simp [indexOperand, Nat.not_lt.mpr h]

/-- The guard's difference over the natural numbers (R15). -/
theorem elapsed_toNat (now lastT : Timestamp) : (elapsed now lastT).toNat = elapsedMs now lastT := by
  have := now.isLt; have := lastT.isLt
  simp only [elapsed, elapsedMs, BitVec.toNat_sub]
  congr 1; omega

/-- The guard over the natural numbers (R106). -/
theorem accepted_iff (now lastT : Timestamp) : accepted now lastT = true ↔ 50 < elapsedMs now lastT := by
  simp [accepted, debounceMs, BitVec.ule, elapsed_toNat]

/-! ### Rendering and the wire formats -/

theorem renderBuffer_getElem (pattern : Pattern) (inten : Channel) (i : Fin 25) :
    (renderBuffer pattern inten)[i] = renderPixel pattern inten i := by
  simp [renderBuffer]

/-- The bit test of R90 is the pattern's bit. -/
theorem patternBit_iff (pattern : Pattern) (i : Nat) :
    (pattern >>> i) &&& 1#25 = 1#25 ↔ pattern.getLsbD i = true := by
  constructor
  · intro h
    have := congrArg (fun v => v.getLsbD 0) h
    simpa using this
  · intro h
    ext j hj
    rcases j with _ | j
    · simpa using h
    · simp [BitVec.getElem_one]

/-- The buffer a render writes is the rendering R90 describes. -/
theorem renderedAs_renderBuffer (pattern : Pattern) (inten : Channel) :
    RenderedAs (renderBuffer pattern inten) pattern inten := by
  intro i
  rw [renderBuffer_getElem]
  simp only [renderPixel, patternBit_iff]

/-- The packed word is the four fields side by side (R41). -/
theorem packWord_eq_append (px : Pixel) : packWord px = px.g ++ px.r ++ px.b ++ 0#8 := by
  have h := BitVec.setWidth_append_append_append_eq_shiftLeft_setWidth_or (w'''' := 32)
    (b := px.g) (b' := px.r) (b'' := px.b) (b''' := 0#8)
  rw [BitVec.setWidth_eq] at h
  rw [h]
  simp [packWord]

/-! ### The environment's inputs and runs -/

theorem ports_eq_upcoming_zero (s : State) : s.ports = s.upcoming 0 := by
  unfold State.ports State.upcoming
  split <;> simp_all

theorem upcoming_advance (s : State) (k : Nat) : s.advance.upcoming k = s.upcoming (k + 1) := by
  unfold State.advance State.upcoming
  split <;> rename_i h <;> simp [h]
  congr 1; omega

/-- The coming inputs are a function of the listed inputs and the draw counter alone. -/
theorem upcoming_congr {s t : State} (h : SameSurroundings s t) (k : Nat) : t.upcoming k = s.upcoming k := by
  simp [State.upcoming, h.2.1, h.2.2]

theorem run_zero (s : State) : run 0 s = .next s := rfl

theorem run_succ {s t : State} (h : step s = .next t) (n : Nat) : run (n + 1) s = run n t := by
  have h' : Sys2Proof.core.step s = .next t := h
  simp only [run, Host.Core.run, h']
  rfl

/-! ### Inversion of `exec` -/

theorem movesDigit_evtInc (d : Fin 10) : MovesDigit .evtInc d (incDigit d) := .inl ⟨rfl, rfl⟩

theorem movesDigit_evtDec (d : Fin 10) : MovesDigit .evtDec d (decDigit d) := .inr ⟨rfl, rfl⟩

/-- A digit moved by an event is another digit (R106). -/
theorem movesDigit_ne {i : Instr} {d d' : Fin 10} (h : MovesDigit i d d') : d' ≠ d := by
  rintro rfl
  have := d'.isLt
  rcases h with ⟨-, h⟩ | ⟨-, h⟩ <;> omega

/-- An event moves a digit to one place only. -/
theorem movesDigit_unique {i : Instr} {d d' e' : Fin 10} (h : MovesDigit i d d') (k : MovesDigit i d e') :
    d' = e' := by
  rcases h with ⟨rfl, h⟩ | ⟨rfl, h⟩ <;> rcases k with ⟨hi, k⟩ | ⟨hi, k⟩ <;> simp_all [Fin.ext_iff]

/-- An accepted event, whichever button (R107, R108). -/
theorem exec_accepted {i : Instr} {s : State} {d' : Fin 10} (h : MovesDigit i s.digit d')
    (ha : 50 < elapsedMs s.ports.now s.lastT) : exec i s = .next (acceptEvent d' s.ports.now s) := by
  have ha' := (accepted_iff s.ports.now s.lastT).mpr ha
  rcases h with ⟨rfl, h⟩ | ⟨rfl, h⟩
  · have : incDigit s.digit = d' := Fin.ext h.symm
    simp [exec, execEvtInc, fallingEdge, sampleNow, ha', this]
  · have : decDigit s.digit = d' := Fin.ext h.symm
    simp [exec, execEvtDec, fallingEdge, sampleNow, ha', this]

/-- A rejected event, whichever button (R106). -/
theorem exec_rejected {i : Instr} {s : State} {d' : Fin 10} (h : MovesDigit i s.digit d')
    (ha : elapsedMs s.ports.now s.lastT ≤ 50) : exec i s = .next (finish .rejected 0 s) := by
  have ha' : accepted s.ports.now s.lastT = false := by
    rw [← Bool.not_eq_true, accepted_iff]; omega
  rcases h with ⟨rfl, -⟩ | ⟨rfl, -⟩
  · simp [exec, execEvtInc, fallingEdge, sampleNow, ha']
  · simp [exec, execEvtDec, fallingEdge, sampleNow, ha']

/-- Everything the `take` step of a decoded operation can do. -/
inductive ExecOutcome (i : Instr) (s : State) : State → Prop
  /-- an operand out of range: the fault state, nothing else (R122) -/
  | faults (code : FaultCode) : i.wf = false → ExecOutcome i s (raiseFault code s)
  /-- a response and nothing else: LOOKUP, a rejected event, an ignored edge -/
  | responds (status : Status) (value : Pattern) : i.wf = true → ExecOutcome i s (finish status value s)
  /-- the buffer written and the response `DONE`: CLEAR, SETPX, RENDER -/
  | writes (pb : PixelBuffer) : i.wf = true →
      (i = .clear ∨ (∃ idx r g b, i = .setpx idx r g b) ∨ (∃ pattern inten, i = .render pattern inten)) →
      ExecOutcome i s (finish .done 0 (pbufWriteAll pb s))
  /-- a flush started by a direct request -/
  | flushes (mode : WireMode) : i.wf = true → (i = .flushW ∨ i = .flushB) → ExecOutcome i s (startFlush mode s)
  /-- an accepted event -/
  | accepts (d' : Fin 10) : i.wf = true → MovesDigit i s.digit d' → 50 < elapsedMs s.ports.now s.lastT →
      ExecOutcome i s (acceptEvent d' s.ports.now s)

/-- Every operation answers a next state, one of those `ExecOutcome` lists. -/
theorem exec_outcome (i : Instr) (s : State) : ∃ t, exec i s = .next t ∧ ExecOutcome i s t := by
  have event (i : Instr) (d' : Fin 10) (hw : i.wf = true) (h : MovesDigit i s.digit d') :
      ∃ t, exec i s = .next t ∧ ExecOutcome i s t := by
    by_cases ha : 50 < elapsedMs s.ports.now s.lastT
    · exact ⟨_, exec_accepted h ha, .accepts d' hw h ha⟩
    · exact ⟨_, exec_rejected h (by omega), .responds _ _ hw⟩
  cases i with
  | lookup d =>
    by_cases h : d.toNat < 10
    · exact ⟨finish .done (gromRead s ⟨d.toNat, h⟩) s, by simp only [exec, execLookup, digitOperand_some h],
        .responds _ _ (by simp [Instr.wf, h])⟩
    · exact ⟨raiseFault .fDigit s, by simp only [exec, execLookup, digitOperand_none (by omega : 10 ≤ d.toNat)],
        .faults _ (by simp [Instr.wf]; omega)⟩
  | clear => exact ⟨_, rfl, .writes _ rfl (.inl rfl)⟩
  | setpx idx r g b =>
    by_cases h : idx.toNat < 25
    · exact ⟨_, by simp only [exec, execSetpx, indexOperand_some h]; rfl,
        .writes (s.pb.set idx.toNat ⟨r, g, b⟩) (by simp [Instr.wf, h]) (.inr (.inl ⟨_, _, _, _, rfl⟩))⟩
    · exact ⟨raiseFault .fIndex s, by simp only [exec, execSetpx, indexOperand_none (by omega : 25 ≤ idx.toNat)],
        .faults _ (by simp [Instr.wf]; omega)⟩
  | render pattern inten => exact ⟨_, rfl, .writes _ rfl (.inr (.inr ⟨_, _, rfl⟩))⟩
  | flushW => exact ⟨_, rfl, .flushes _ rfl (.inl rfl)⟩
  | flushB => exact ⟨_, rfl, .flushes _ rfl (.inr rfl)⟩
  | evtInc => exact event _ _ rfl (movesDigit_evtInc _)
  | evtDec => exact event _ _ rfl (movesDigit_evtDec _)
  | evtRise src => exact ⟨_, rfl, .responds _ _ rfl⟩

theorem exec_cases {i : Instr} {s t : State} (h : exec i s = .next t) : ExecOutcome i s t := by
  obtain ⟨u, hu, ho⟩ := exec_outcome i s
  rw [h] at hu; cases hu; exact ho

/-! ### Inversion of the `emit` step -/

/-- Everything an `emit` step can do to the sequencer and the responses (R98, R99). -/
inductive AdvanceOutcome (fmode : WireMode) (fi : Fin 25) (fp : Fin 3) (s : State) : State → Prop
  /-- the next phase of the same pixel -/
  | phase (h : fp.val < 2) : fmode = .byteTriplet →
      AdvanceOutcome fmode fi fp s (setSeq (.flush fmode fi ⟨fp.val + 1, by omega⟩) s)
  /-- the next pixel -/
  | pixel (h : fi.val < 24) : fmode = .packedWord ∨ fp.val = 2 →
      AdvanceOutcome fmode fi fp s (setSeq (.flush fmode ⟨fi.val + 1, by omega⟩ 0) s)
  /-- completion -/
  | completes : fi.val = 24 → fmode = .packedWord ∨ fp.val = 2 → AdvanceOutcome fmode fi fp s (finish .done 0 s)

theorem lastOfPixel_iff (fmode : WireMode) (fp : Fin 3) :
    lastOfPixel fmode fp = true ↔ fmode = .packedWord ∨ fp.val = 2 := by
  cases fmode <;> simp [lastOfPixel, Fin.ext_iff]

theorem advanceFlush_outcome (fmode : WireMode) (fi : Fin 25) (fp : Fin 3) (s : State) :
    AdvanceOutcome fmode fi fp s (advanceFlush fmode fi fp s) := by
  have hfi := fi.isLt; have hfp := fp.isLt
  unfold advanceFlush
  split
  · rename_i h
    rw [lastOfPixel_iff] at h
    split
    · rename_i h'; exact .pixel h' h
    · exact .completes (by omega) h
  · rename_i h
    rw [lastOfPixel_iff, not_or] at h
    have h2 : fp.val < 2 := by omega
    have : fp + 1 = ⟨fp.val + 1, by omega⟩ := by
      apply Fin.ext; simp [Fin.val_add]; omega
    rw [this]
    exact .phase h2 (by cases fmode <;> simp_all)

/-- `advanceFlush_outcome`, said of the whole `emit` step. -/
theorem emitStep_outcome (fmode : WireMode) (fi : Fin 25) (fp : Fin 3) (s : State) :
    AdvanceOutcome fmode fi fp (emit (unitOf fmode (pbufRead s fi) fp) s) (emitStep fmode fi fp s) :=
  advanceFlush_outcome _ _ _ _

/-- What an `emit` step leaves alone, and the unit it hands over (R95, R98). -/
theorem emitStep_frame (fmode : WireMode) (fi : Fin 25) (fp : Fin 3) (s : State) :
    SameRegisters s (emitStep fmode fi fp s) ∧ SameSurroundings s (emitStep fmode fi fp s) ∧
    (emitStep fmode fi fp s).out = s.out ++ [unitOf fmode (pbufRead s fi) fp] := by
  unfold emitStep
  have ho := advanceFlush_outcome fmode fi fp (emit (unitOf fmode (pbufRead s fi) fp) s)
  generalize advanceFlush fmode fi fp (emit (unitOf fmode (pbufRead s fi) fp) s) = t at ho
  cases ho <;> simp [SameRegisters, SameSurroundings]

@[simp] theorem emitStep_pb (fmode : WireMode) (fi : Fin 25) (fp : Fin 3) (s : State) :
    (emitStep fmode fi fp s).pb = s.pb := (emitStep_frame fmode fi fp s).1.1

@[simp] theorem emitStep_digit (fmode : WireMode) (fi : Fin 25) (fp : Fin 3) (s : State) :
    (emitStep fmode fi fp s).digit = s.digit := (emitStep_frame fmode fi fp s).1.2.1

@[simp] theorem emitStep_lastT (fmode : WireMode) (fi : Fin 25) (fp : Fin 3) (s : State) :
    (emitStep fmode fi fp s).lastT = s.lastT := (emitStep_frame fmode fi fp s).1.2.2

@[simp] theorem emitStep_cfg (fmode : WireMode) (fi : Fin 25) (fp : Fin 3) (s : State) :
    (emitStep fmode fi fp s).cfg = s.cfg := (emitStep_frame fmode fi fp s).2.1.1

@[simp] theorem emitStep_inputs (fmode : WireMode) (fi : Fin 25) (fp : Fin 3) (s : State) :
    (emitStep fmode fi fp s).inputs = s.inputs := (emitStep_frame fmode fi fp s).2.1.2.1

@[simp] theorem emitStep_tick (fmode : WireMode) (fi : Fin 25) (fp : Fin 3) (s : State) :
    (emitStep fmode fi fp s).tick = s.tick := (emitStep_frame fmode fi fp s).2.1.2.2

@[simp] theorem emitStep_out (fmode : WireMode) (fi : Fin 25) (fp : Fin 3) (s : State) :
    (emitStep fmode fi fp s).out = s.out ++ [unitOf fmode (pbufRead s fi) fp] := (emitStep_frame fmode fi fp s).2.2

/-! ### Inversion of `step` -/

/-- Everything one step of the block can do, before the environment moves on (R26). -/
inductive StepOutcome (s : State) : State → Prop
  /-- `reset` -/
  | resets : s.ports.rst = true → StepOutcome s (resetRegisters s)
  /-- IDLE with no request -/
  | waits : s.ports.rst = false → s.seq = .idle → s.ports.req = none → StepOutcome s s
  /-- `take` of an operation -/
  | takes (req : Request) (i : Instr) (t : State) : s.Takes req → decode req = .ok i → ExecOutcome i s t →
      StepOutcome s t
  /-- `take` of a reserved word -/
  | reserved (req : Request) (e : Reserved) : s.Takes req → decode req = .error e →
      StepOutcome s (raiseFault .fReq s)
  /-- `emit` -/
  | emits (fmode : WireMode) (fi : Fin 25) (fp : Fin 3) : s.Emits fmode fi fp →
      StepOutcome s (emitStep fmode fi fp s)
  /-- FLUSH with the sink not ready -/
  | stalls (fmode : WireMode) (fi : Fin 25) (fp : Fin 3) : s.ports.rst = false → s.seq = .flush fmode fi fp →
      s.ports.outReady = false → StepOutcome s s
  /-- FAULT -/
  | stopped (code : FaultCode) : s.ports.rst = false → s.seq = .fault code → StepOutcome s s

/-- Every step answers a next state: one of those `StepOutcome` lists, the environment one step on. -/
theorem step_outcome (s : State) : ∃ t, step s = .next t.advance ∧ StepOutcome s t := by
  by_cases hr : s.ports.rst = true
  · exact ⟨_, by simp [step, blockStep, hr, onNext], .resets hr⟩
  have hr : s.ports.rst = false := by simpa using hr
  cases hs : s.seq with
  | idle =>
    cases hq : s.ports.req with
    | none => exact ⟨s, by simp [step, blockStep, hr, hs, hq, onNext], .waits hr hs hq⟩
    | some req =>
      cases hd : decode req with
      | error e =>
        exact ⟨_, by simp [step, blockStep, hr, hs, hq, takeRequest, hd, onNext], .reserved req e ⟨hr, hs, hq⟩ hd⟩
      | ok i =>
        obtain ⟨t, ht, ho⟩ := exec_outcome i s
        exact ⟨t, by simp [step, blockStep, hr, hs, hq, takeRequest, hd, ht, onNext],
          .takes req i t ⟨hr, hs, hq⟩ hd ho⟩
  | flush fmode fi fp =>
    by_cases ho : s.ports.outReady = true
    · exact ⟨emitStep fmode fi fp s, by simp [step, blockStep, hr, hs, ho, onNext],
        .emits fmode fi fp ⟨hr, hs, ho⟩⟩
    · have ho : s.ports.outReady = false := by simpa using ho
      exact ⟨s, by simp [step, blockStep, hr, hs, ho, onNext], .stalls fmode fi fp hr hs ho⟩
  | fault code => exact ⟨s, by simp [step, blockStep, hr, hs, onNext], .stopped code hr hs⟩

theorem step_cases {s t : State} (h : step s = .next t) : ∃ u, t = u.advance ∧ StepOutcome s u := by
  obtain ⟨u, hu, ho⟩ := step_outcome s
  rw [h] at hu; cases hu; exact ⟨u, rfl, ho⟩

/-- The step that takes a decoded request (R26). -/
theorem step_takes {s : State} {req : Request} {i : Instr} (h : s.Takes req) (hd : decode req = .ok i) :
    step s = onNext State.advance (exec i s) := by
  simp [step, blockStep, h.1, h.2.1, h.2.2, takeRequest, hd]

/-- The step that emits (R26). -/
theorem step_emits {s : State} {fmode : WireMode} {fi : Fin 25} {fp : Fin 3} (h : s.Emits fmode fi fp) :
    step s = .next (emitStep fmode fi fp s).advance := by
  simp [step, blockStep, h.1, h.2.1, h.2.2, onNext]

/-- No operation and no step of the block touches the configuration or the environment. -/
theorem stepOutcome_surroundings {s t : State} (h : StepOutcome s t) : SameSurroundings s t := by
  cases h with
  | takes req i t _ _ ho => cases ho <;> simp [SameSurroundings]
  | emits fmode fi fp _ => exact (emitStep_frame fmode fi fp s).2.1
  | _ => simp [SameSurroundings]

/-- The coming inputs after a step are those before it, one further on. -/
theorem upcoming_step {s t : State} (h : step s = .next t) (k : Nat) : t.upcoming k = s.upcoming (k + 1) := by
  obtain ⟨u, rfl, ho⟩ := step_cases h
  rw [upcoming_advance, upcoming_congr (stepOutcome_surroundings ho)]

/-! ### Runs, step by step -/

theorem run_step {n : Nat} {s t : State} (h : run (n + 1) s = .next t) : ∃ u, step s = .next u ∧ run n u = .next t := by
  obtain ⟨u, hu, -⟩ := step_outcome s
  exact ⟨u.advance, hu, by rwa [run_succ hu] at h⟩

/-- A run one step longer is the run followed by one step. -/
theorem run_succ_last (n : Nat) : ∀ {s t : State}, run n s = .next t → run (n + 1) s = step t := by
  induction n with
  | zero =>
    intro s t h
    cases h
    obtain ⟨u, hu, -⟩ := step_outcome s
    rw [run_succ hu, hu]; rfl
  | succ n ih =>
    intro s t h
    obtain ⟨u, hu, hr⟩ := run_step h
    rw [run_succ hu]; exact ih hr

/-- The input signals of the step after `n` steps are the `n`-th coming ones. -/
theorem ports_run (n : Nat) : ∀ {s t : State}, run n s = .next t → t.ports = s.upcoming n := by
  induction n with
  | zero => intro s t h; cases h; exact ports_eq_upcoming_zero s
  | succ n ih =>
    intro s t h
    obtain ⟨u, hu, hr⟩ := run_step h
    rw [ih hr, upcoming_step hu]

/-! ### The flush in progress and the environment's duties, one step on -/

theorem flushLasts_zero (s : State) : FlushLasts s 0 := by
  intro k hk; omega

theorem flushLasts_succ {s t : State} (h : step s = .next t) (n : Nat) :
    FlushLasts s (n + 1) ↔ s.Flushing ∧ FlushLasts t n := by
  constructor
  · intro hl
    exact ⟨hl 0 (by omega) s rfl, fun k hk u hu => hl (k + 1) (by omega) u (by rw [run_succ h]; exact hu)⟩
  · rintro ⟨hs, hl⟩ k hk u hu
    cases k with
    | zero => cases hu; exact hs
    | succ k => exact hl k (by omega) u (by rw [← run_succ h]; exact hu)

theorem sinkWeaklyFair_step {s t : State} (h : step s = .next t) (hs : s.Flushing) (hf : SinkWeaklyFair s) :
    SinkWeaklyFair t := by
  intro k hl
  obtain ⟨j, hj, hr⟩ := hf (k + 1) ((flushLasts_succ h _).mpr ⟨hs, hl⟩)
  obtain ⟨j, rfl⟩ : ∃ i, j = i + 1 := ⟨j - 1, by omega⟩
  exact ⟨j, by omega, by rw [upcoming_step h]; exact hr⟩

theorem noResetDuringFlush_step {s t : State} (h : step s = .next t) (hs : s.Flushing) (hn : NoResetDuringFlush s) :
    NoResetDuringFlush t := by
  intro k hl
  rw [upcoming_step h]
  exact hn (k + 1) ((flushLasts_succ h _).mpr ⟨hs, hl⟩)

theorem holdsRequest_noReset {s : State} {req : Request} (h : HoldsRequest s req) : NoResetDuringFlush s :=
  fun k hl => (h k fun j hj => hl j (by omega)).1

/-- The flushes a run started, with those of one step more. -/
theorem flushesStarted_succ (n : Nat) : ∀ {s t : State}, run n s = .next t →
    flushesStarted (n + 1) s = flushesStarted n s ++ t.startsFlush.toList := by
  induction n with
  | zero =>
    intro s t h
    cases h
    obtain ⟨u, hu, -⟩ := step_outcome s
    simp [flushesStarted, hu]
  | succ n ih =>
    intro s t h
    obtain ⟨u, hu, hr⟩ := run_step h
    have one (m : Nat) : flushesStarted (m + 1) s = s.startsFlush.toList ++ flushesStarted m u := by
      simp [flushesStarted, hu]
    rw [one, one, ih hr, List.append_assoc]

/-- The response signals of a step that adds one response. -/
theorem stepResponse_append {s t : State} {r : Response} (h : t.rsp = s.rsp ++ [r]) : stepResponse s t = some r := by
  simp [stepResponse, h]

theorem stepResponse_same {s t : State} (h : t.rsp = s.rsp) : stepResponse s t = none := by
  simp [stepResponse, h]

end Sys2Proof.Machine
end

