-- ==== Sys2Proof/Laws/PerInstr.lean ====
section
/-! SUPPORT. Statements made per operation: the encoded request selects the operation's own row of the opcode map. -/

/-- Every row that carries the operation's mnemonic selects its encoding, at every value of every operand (R64). -/
def Sys2Proof.Laws.SelectsOwnRow.Statement (i : Sys2Proof.Instr) : Prop :=
  ∀ row ∈ Sys2Proof.opcodeMap, row.mnemonic = i.mnemonic → row.selects (Sys2Proof.encode i) = true

namespace Sys2Proof.Laws.SelectsOwnRow

theorem lookup (d : BitVec 4) : Statement (.lookup d) := by
  have h : encode (.lookup d) &&& 0xFFFFFFFFF0#40 = 0x1000000000#40 := by
    revert d; decide
  simp [Statement, opcodeMap, Instr.mnemonic, OpRow.selects, h]

theorem clear : Statement .clear := by
  have h : encode .clear &&& 0xFFFFFFFFFF#40 = 0x2000000000#40 := by decide
  simp [Statement, opcodeMap, Instr.mnemonic, OpRow.selects, h]

theorem setpx (idx : BitVec 5) (r g b : Channel) : Statement (.setpx idx r g b) := by
  have h := (setpxRow_iff _).mpr (encode_setpx_high idx r g b)
  simp [Statement, opcodeMap, Instr.mnemonic, OpRow.selects, h]

theorem render (pattern : Pattern) (inten : Channel) : Statement (.render pattern inten) := by
  have h := (renderRow_iff _).mpr (encode_render_high pattern inten)
  simp [Statement, opcodeMap, Instr.mnemonic, OpRow.selects, h]

theorem flushW : Statement .flushW := by
  have h : encode .flushW &&& 0xFFFFFFFFFF#40 = 0x5000000000#40 := by decide
  simp [Statement, opcodeMap, Instr.mnemonic, OpRow.selects, h]

theorem flushB : Statement .flushB := by
  have h : encode .flushB &&& 0xFFFFFFFFFF#40 = 0x5000000001#40 := by decide
  simp [Statement, opcodeMap, Instr.mnemonic, OpRow.selects, h]

theorem evtInc : Statement .evtInc := by
  have h : encode .evtInc &&& 0xFFFFFFFFFF#40 = 0x6000000000#40 := by decide
  simp [Statement, opcodeMap, Instr.mnemonic, OpRow.selects, h]

theorem evtDec : Statement .evtDec := by
  have h : encode .evtDec &&& 0xFFFFFFFFFF#40 = 0x6000000001#40 := by decide
  simp [Statement, opcodeMap, Instr.mnemonic, OpRow.selects, h]

theorem evtRise (src : Source) : Statement (.evtRise src) := by
  have h : encode (.evtRise src) &&& 0xFFFFFFFFFE#40 = 0x6000000002#40 := by cases src <;> decide
  simp [Statement, opcodeMap, Instr.mnemonic, OpRow.selects, h]

end Sys2Proof.Laws.SelectsOwnRow
end

