-- ==== Sys2Proof/Tests/Slice0.lean ====
section
/-! SUPPORT. Tests. Expected results are those of spec/95_test_vectors.md (the section is named at each test), which
derives them from the rules; `TG` is its test glyph table. Then, for each statement with hypotheses, a state and operands
that meet them all. -/

namespace Sys2Proof.Tests

open Sys2Proof Sys2Proof.Machine

/-! ### Well-formedness: one ill-formed term for each check, refused (R63) -/

theorem test_wf_refuses_lookup_10 : (Instr.lookup 10).wf = false := by decide
theorem test_wf_admits_lookup_9 : (Instr.lookup 9).wf = true := by decide
theorem test_wf_refuses_setpx_25 : (Instr.setpx 25 0 0 0).wf = false := by decide
theorem test_wf_admits_setpx_24 : (Instr.setpx 24 0 0 255).wf = true := by decide

/-! ### Decoding: words written out from the format tables (95_test_vectors.md 2.1) -/

theorem test_decode_lookup : decode 0x1000000009#40 = .ok (.lookup 9) := by decide
theorem test_decode_clear : decode 0x2000000000#40 = .ok .clear := by decide
theorem test_decode_setpx : decode 0x3000FF8001#40 = .ok (.setpx 0 255 128 1) := by decide
theorem test_decode_setpx_last : decode 0x30180000FF#40 = .ok (.setpx 24 0 0 255) := by decide
theorem test_decode_render : decode 0x4029555555#40 = .ok (.render 0x1555555 20) := by decide
theorem test_decode_render_wide : decode 0x41FE000000#40 = .ok (.render 0 255) := by decide
theorem test_decode_flushW : decode 0x5000000000#40 = .ok .flushW := by decide
theorem test_decode_flushB : decode 0x5000000001#40 = .ok .flushB := by decide
theorem test_decode_evtInc : decode 0x6000000000#40 = .ok .evtInc := by decide
theorem test_decode_evtDec : decode 0x6000000001#40 = .ok .evtDec := by decide
theorem test_decode_evtRise : decode 0x6000000002#40 = .ok (.evtRise .increment) := by decide
theorem test_decode_evtRise_dec : decode 0x6000000003#40 = .ok (.evtRise .decrement) := by decide
theorem test_decode_reserved_ops :
    decode 0#40 = .error .undefinedOp ∧ decode 0x7000000000#40 = .error .undefinedOp ∧
    decode 0xFFFFFFFFFF#40 = .error .undefinedOp := by decide
theorem test_decode_reserved_bits :
    decode 0x1000000010#40 = .error .reservedBit ∧ decode 0x2000000001#40 = .error .reservedBit ∧
    decode 0x3020000000#40 = .error .reservedBit ∧ decode 0x4200000000#40 = .error .reservedBit ∧
    decode 0x5000000002#40 = .error .reservedBit ∧ decode 0x6000000004#40 = .error .reservedBit := by decide
theorem test_encode_setpx : encode (.setpx 3 1 2 3) = 0x3003010203#40 := by decide
theorem test_encode_render : encode (.render 0x0123456 10) = 0x4014123456#40 := by decide

/-! ### Small states -/

/-- `TG` of 95_test_vectors.md section 0, at intensity 10. -/
def tg (mode : WireMode) : Config where
  glyph := #v[0x0000000, 0x1FFFFFF, 0x0000001, 0x1000000, 0x0AAAAAA, 0x1555555, 0x000001F, 0x1F00000, 0x0123456, 0x1ABCDEF]
  intensity := 10
  wireMode := mode

/-- A step in which `req` is presented at time `now`. -/
def ask (req : Request) (now : Timestamp) : PortInputs := ⟨false, some req, now, false⟩

/-- A step in which nothing is presented and the sink is ready. -/
def ready : PortInputs := ⟨false, none, 0, true⟩

/-- A step in which nothing is presented and the sink is not ready. -/
def notReady : PortInputs := ⟨false, none, 0, false⟩

/-- A step in which reset is asserted. -/
def rst : PortInputs := ⟨true, none, 0, false⟩

/-- The reset state with `TG` in mode `W` and the given inputs to come. -/
def start (inputs : List PortInputs) : State := { State.reset with cfg := tg .packedWord, inputs := inputs }

/-- As `start`, with the sequencer elsewhere. -/
def startAt (seq : Seq) (inputs : List PortInputs) : State := { start inputs with seq := seq }

/-- The next state of a result. -/
def nextOf : Result → Option State
  | .next t => some t
  | .fault _ => none
  | .refused _ => none

theorem eq_next_of_nextOf {r : Result} {t : State} (h : nextOf r = some t) : r = .next t := by
  cases r <;> simp_all [nextOf]

theorem exists_next {r : Result} (h : (nextOf r).isSome = true) : ∃ t, r = .next t := by
  obtain ⟨t, ht⟩ := Option.isSome_iff_exists.mp h
  exact ⟨t, eq_next_of_nextOf ht⟩

/-- The state in which the flush in progress ends, if it has just ended after exactly `n` steps. -/
def flushEnd : Nat → State → Option State
  | 0, s => if s.seq = .idle then some s else none
  | n + 1, s =>
    match s.seq, step s with
    | .flush _ _ _, .next t => flushEnd n t
    | _, _ => none

theorem flushEndsIn_of_flushEnd (n : Nat) : ∀ s t, flushEnd n s = some t → FlushEndsIn s n t := by
  induction n with
  | zero =>
    intro s t h
    simp only [flushEnd, Option.ite_none_right_eq_some, Option.some.injEq] at h
    obtain ⟨h, rfl⟩ := h
    exact ⟨rfl, h, by intro k hk; omega⟩
  | succ n ih =>
    intro s t h
    simp only [flushEnd] at h
    split at h
    · rename_i m fi fp u hs hu
      obtain ⟨h1, h2, h3⟩ := ih u t h
      refine ⟨by rw [run_succ hu]; exact h1, h2, ?_⟩
      intro k hk v hv
      cases k with
      | zero => cases hv; exact ⟨_, _, _, hs⟩
      | succ k => exact h3 k (by omega) v (by rw [← run_succ hu]; exact hv)
    · cases h

theorem exists_flushEnd {n : Nat} {s : State} (h : (flushEnd n s).isSome = true) : ∃ t, FlushEndsIn s n t := by
  obtain ⟨t, ht⟩ := Option.isSome_iff_exists.mp h
  exact ⟨t, flushEndsIn_of_flushEnd n s t ht⟩

/-! ### One step of each operation -/

/-- 2.2: `LOOKUP 7` responds `(DONE, TG[7])`. -/
theorem test_lookup : (nextOf (step (start [ask 0x1000000007 0]))).map (·.rsp) = some [⟨.done, 0x1F00000⟩] := by decide
/-- 2.7: `LOOKUP 12` enters the fault state with `F_DIGIT` and no response. -/
theorem test_lookup_fault :
    (nextOf (step (start [ask 0x100000000C 0]))).map (fun t => (t.seq, t.rsp)) = some (.fault .fDigit, []) := by decide
/-- 2.3: CLEAR over a written pixel. -/
theorem test_clear :
    (nextOf (step { start [ask 0x2000000000 0] with pb := (State.reset).pb.set 3 ⟨9, 8, 7⟩ })).map (·.pb) =
      some State.reset.pb := by decide
/-- 2.3: `SETPX 3, 1, 2, 3`: the second operand is red. -/
theorem test_setpx :
    (nextOf (step (start [ask 0x3003010203 0]))).map (fun t => (t.pb[2], t.pb[3], t.pb[4])) =
      some (⟨0, 0, 0⟩, ⟨1, 2, 3⟩, ⟨0, 0, 0⟩) := by decide
/-- 2.7: `SETPX 25, 9, 9, 9` enters the fault state with `F_INDEX`, the buffer unchanged. -/
theorem test_setpx_fault :
    (nextOf (step (start [ask 0x3019090909 0]))).map (fun t => (t.seq, t.pb)) =
      some (.fault .fIndex, State.reset.pb) := by decide
/-- 2.4: `RENDER 0x1000000, 1`: bit 24 is pixel 24. -/
theorem test_render :
    (nextOf (step (start [ask 0x4003000000 0]))).map (fun t => (t.pb[0], t.pb[23], t.pb[24])) =
      some (⟨1, 0, 0⟩, ⟨1, 0, 0⟩, ⟨1, 1, 1⟩) := by decide
/-- 3: FLUSH.W starts at pixel 0 without a response. -/
theorem test_flushW :
    (nextOf (step (start [ask 0x5000000000 0]))).map (fun t => (t.seq, t.rsp, t.out)) =
      some (.flush .packedWord 0 0, [], []) := by decide
/-- 3: FLUSH.B starts at pixel 0, phase 0. -/
theorem test_flushB :
    (nextOf (step (start [ask 0x5000000001 0]))).map (·.seq) = some (.flush .byteTriplet 0 0) := by decide
/-- 2.6: `EVT.INC` at 51, the first instant accepted after reset. -/
theorem test_evtInc :
    (nextOf (step (start [ask 0x6000000000 51]))).map (fun t => (t.digit, t.lastT, t.seq, t.pb[0])) =
      some (1, 51, .flush .packedWord 0 0, ⟨10, 10, 10⟩) := by decide
/-- 2.6: `EVT.INC` at 50 is rejected (the boundary). -/
theorem test_evtInc_rejected :
    (nextOf (step (start [ask 0x6000000000 50]))).map (fun t => (t.digit, t.lastT, t.seq, t.rsp)) =
      some (0, 0, .idle, [⟨.rejected, 0⟩]) := by decide
/-- 2.6: `EVT.DEC` wraps 0 to 9; pixel 4 of `TG[9]` is background. -/
theorem test_evtDec :
    (nextOf (step (start [ask 0x6000000001 51]))).map (fun t => (t.digit, t.pb[3], t.pb[4])) =
      some (9, ⟨10, 10, 10⟩, ⟨10, 0, 0⟩) := by decide
/-- 2.6: a wrapped difference of 1 is rejected though `now < LAST_T` (assumption 9). -/
theorem test_evtDec_wrapped :
    (nextOf (step { start [ask 0x6000000001 0] with lastT := 0xFFFFFFFFFFFFFFFF })).map (·.rsp) =
      some [⟨.rejected, 0⟩] := by decide
/-- 2.6: `EVT.RISE` is ignored outside the window too. -/
theorem test_evtRise :
    (nextOf (step (start [ask 0x6000000003 5000]))).map (fun t => (t.digit, t.lastT, t.rsp)) =
      some (0, 0, [⟨.ignored, 0⟩]) := by decide
/-- 2.5: the pixel `(0x12, 0x34, 0x56)` gives the word `34125600`. -/
theorem test_emit_word :
    (nextOf (step { startAt (.flush .packedWord 3 0) [ready] with pb := (State.reset).pb.set 3 ⟨0x12, 0x34, 0x56⟩ })).map
      (fun t => (t.seq, t.out)) = some (.flush .packedWord 4 0, [.word 0x34125600]) := by decide
/-- 3.1: the last byte of a frame completes it with one response. -/
theorem test_emit_last_byte :
    (nextOf (step { startAt (.flush .byteTriplet 24 2) [ready] with pb := (State.reset).pb.set 24 ⟨1, 2, 3⟩ })).map
      (fun t => (t.seq, t.out, t.rsp)) = some (.idle, [.byte 3], [⟨.done, 0⟩]) := by decide
/-- 2.7: reserved bit and out-of-range index: decode fails first. -/
theorem test_decode_before_range :
    (nextOf (step (start [ask 0x3039000000 0]))).map (·.seq) = some (.fault .fReq) := by decide
/-- 2.7: the fault state takes nothing. -/
theorem test_fault_takes_nothing :
    (nextOf (step (startAt (.fault .fIndex) [ask 0x2000000000 0]))).map (fun t => (t.seq, t.rsp)) =
      some (.fault .fIndex, []) := by decide
/-- 2.8: reset in mid-flush keeps what was handed over and answers nothing. -/
theorem test_reset_mid_flush :
    (nextOf (step { startAt (.flush .packedWord 3 0) [rst] with digit := 7, lastT := 123456, out := [.word 1] })).map
      (fun t => (t.digit, t.lastT, t.seq, t.out, t.rsp)) = some (0, 0, .idle, [.word 1], []) := by decide

/-! ### Placing a word from the opcode table -/

theorem test_decodeTableWord : decodeTableWord 40 0x4014123456 = some (.render 0x0123456 10) := by decide
theorem test_placed_word_from_reset :
    (nextOf (step (State.reset.withFetchWord 40 0x2000000000))).map (·.rsp) = some [⟨.done, 0⟩] := by decide
theorem test_placed_event_is_accepted :
    (nextOf (step (State.reset.withFetchWord 40 0x6000000000))).map (fun t => (t.digit, t.lastT)) = some (1, 51) := by
  decide

/-! ### Witnesses: the hypotheses of each statement can be met together -/

theorem start_takes (req : Request) (now : Timestamp) (rest : List PortInputs) : (start (ask req now :: rest)).Takes req :=
  ⟨rfl, rfl, rfl⟩

theorem witness_DecodedWordEncodesBack : ∃ req i, decode req = .ok i := ⟨0x3003010203#40, .setpx 3 1 2 3, by decide⟩

theorem witness_OpcodeRowsAreDisjoint :
    ∃ req, ∃ a ∈ opcodeMap, ∃ b ∈ opcodeMap, a.selects req = true ∧ b.selects req = true :=
  ⟨0x6000000003#40, ⟨"EVT.RISE", 0xFFFFFFFFFE#40, 0x6000000002#40⟩, by decide,
    ⟨"EVT.RISE", 0xFFFFFFFFFE#40, 0x6000000002#40⟩, by decide, by decide, by decide⟩

theorem witness_StepRunsDecodedRequest : ∃ s req i, State.Takes s req ∧ decode req = .ok i :=
  ⟨_, 0x2000000000#40, .clear, start_takes _ 0 [], by decide⟩

theorem witness_PlacedWordIsTakenNext : ∃ nbits w i, decodeTableWord nbits w = some i :=
  ⟨40, 0x6000000003, .evtRise .decrement, by decide⟩

theorem witness_ConfigurationNeverWritten :
    (∃ i s t, exec i s = .next t) ∧ (∃ n s t, run n s = .next t ∧ 0 < n) :=
  ⟨⟨.clear, start [], _, rfl⟩, 1, start [ready], _, rfl, by decide⟩

theorem witness_BusyBlockIgnoresRequests :
    (∃ s p rest, s.inputs = p :: rest ∧ State.reqReady s = false ∧ s.seq = .flush .packedWord 24 0) ∧
    (∃ s p rest, s.inputs = p :: rest ∧ State.reqReady s = false ∧ s.seq = .fault .fReq) :=
  ⟨⟨startAt (.flush .packedWord 24 0) [ready], _, _, rfl, rfl, rfl⟩,
    ⟨startAt (.fault .fReq) [ready], _, _, rfl, rfl, rfl⟩⟩

theorem witness_NothingEnabledNothingChanges :
    (∃ s : State, s.ports.rst = false ∧ s.seq = .idle ∧ s.ports.req = none) ∧
    (∃ s : State, s.ports.rst = false ∧ s.Flushing ∧ s.ports.outReady = false) ∧
    (∃ s : State, s.ports.rst = false ∧ ∃ code, s.seq = .fault code) :=
  ⟨⟨start [ready], rfl, rfl, rfl⟩,
    ⟨startAt (.flush .byteTriplet 24 2) [notReady], rfl, ⟨_, _, _, rfl⟩, rfl⟩,
    ⟨startAt (.fault .fDigit) [ready], rfl, _, rfl⟩⟩

theorem witness_PortOutputsFollowSequencer :
    (∃ s : State, s.seq = .fault .fReq) ∧ (∃ s : State, s.seq = .fault .fDigit) ∧ (∃ s : State, s.seq = .fault .fIndex) ∧
    (∃ s : State, s.seq = .flush .packedWord 24 0) ∧ (∃ s : State, s.seq = .flush .byteTriplet 0 0) ∧
    (∃ s : State, s.seq = .flush .byteTriplet 12 1) ∧ (∃ s : State, s.seq = .flush .byteTriplet 24 2) ∧
    (∃ s t : State, step s = .next t ∧ t.rsp = s.rsp ++ [⟨.done, 0x1F00000⟩]) ∧
    (∃ s t : State, step s = .next t ∧ t.rsp = s.rsp ++ [⟨.rejected, 0⟩]) ∧
    (∃ s t : State, step s = .next t ∧ t.rsp = s.rsp ++ [⟨.ignored, 0⟩]) ∧
    (∃ s t : State, step s = .next t ∧ t.rsp = s.rsp) :=
  ⟨⟨startAt _ [], rfl⟩, ⟨startAt _ [], rfl⟩, ⟨startAt _ [], rfl⟩, ⟨startAt _ [], rfl⟩, ⟨startAt _ [], rfl⟩,
    ⟨startAt _ [], rfl⟩, ⟨startAt _ [], rfl⟩, ⟨start [ask 0x1000000007 0], _, rfl, by decide⟩,
    ⟨start [ask 0x6000000000 50], _, rfl, by decide⟩, ⟨start [ask 0x6000000002 0], _, rfl, by decide⟩,
    ⟨start [ready], _, rfl, by decide⟩⟩

theorem test_rsp_status_rejected :
    (nextOf (step (start [ask 0x6000000000 50]))).map (rspStatus (start [ask 0x6000000000 50])) = some (some 1#2) := by
  decide

theorem witness_ResetFromAnyState :
    (∃ s : State, s.ports.rst = true ∧ s.Flushing) ∧ (∃ s : State, s.ports.rst = true ∧ s.seq = .fault .fIndex) :=
  ⟨⟨startAt (.flush .packedWord 3 0) [rst], rfl, _, _, _, rfl⟩, ⟨startAt (.fault .fIndex) [rst], rfl, rfl⟩⟩

theorem witness_ReservedRequestRaisesFReq :
    ∃ s req, State.Takes s req ∧ ∀ row ∈ opcodeMap, row.selects req = false :=
  ⟨_, 0x3020000000#40, start_takes _ 0 [], by decide⟩

theorem witness_FaultStateIsSticky : ∃ s code, State.seq s = .fault code ∧ NoReset s 2 :=
  ⟨startAt (.fault .fReq) [ask 0x2000000000 0, ready], .fReq, rfl, by unfold NoReset; decide⟩

theorem start_noFault (ps : List PortInputs) : (start ps).NoFault := by
  intro code h
  cases (show Seq.idle = _ from h)

theorem witness_FaultExactlyOnIllFormedOperand :
    ∃ s : State, s.NoFault ∧ (Instr.lookup 10).wf = false ∧ (Instr.lookup 9).wf = true :=
  ⟨start [], start_noFault _, by decide, by decide⟩

theorem witness_WellFormedRequestsNeverFault :
    ∃ s t, State.NoFault s ∧ WellFormedRequests s 1 ∧ run 1 s = .next t := by
  refine ⟨start [ask 0x2000000000 0], _, start_noFault _, ?_, rfl⟩
  intro k hk req hr
  have : k = 0 := by omega
  subst this
  have : req = 0x2000000000 := by simpa [State.upcoming, start, ask] using hr.symm
  exact ⟨.clear, by rw [this]; decide, rfl⟩

theorem onlyEvents_of_one (req : Request) (now : Timestamp) (h : req = 0x6000000000#40 ∨ req = 0x6000000001#40 ∨
    req = 0x6000000002#40 ∨ req = 0x6000000003#40) : OnlyEvents (start [ask req now]) 1 := by
  intro k hk r hr
  have : k = 0 := by omega
  subst this
  have : r = req := by simpa [State.upcoming, start, ask] using hr.symm
  rw [this]; exact h

theorem witness_ProductRequestsNeverFault : ∃ s t, State.seq s = .idle ∧ OnlyEvents s 1 ∧ run 1 s = .next t :=
  ⟨start [ask 0x6000000003#40 0], _, rfl, onlyEvents_of_one _ _ (by decide), rfl⟩

theorem witness_LookupRespondsStableGlyph :
    (∃ d : BitVec 4, d.toNat < 10 ∧ d = 9) ∧ (∃ d : BitVec 4, d.toNat < 10 ∧ d = 0) ∧ ∃ u, run 1 (start [ready]) = .next u :=
  ⟨⟨9, by decide, rfl⟩, ⟨0, by decide, rfl⟩, _, rfl⟩

theorem witness_LookupOutOfRangeFaults : 10 ≤ (10#4).toNat ∧ 10 ≤ (15#4).toNat := by decide

theorem witness_ClearSetsEveryPixelDark :
    ∃ s req, State.Takes s req ∧ opField req = 2#4 ∧ req ≠ 0x2000000000#40 :=
  ⟨_, 0x2000000001#40, start_takes _ 0 [], by decide, by decide⟩

theorem witness_SetpxWritesExactlyOnePixel : (0#5).toNat < 25 ∧ (24#5).toNat < 25 := by decide

theorem witness_SetpxOutOfRangeFaults : 25 ≤ (25#5).toNat ∧ 25 ≤ (31#5).toNat := by decide

theorem witness_RenderIsDeterministicInTwoColours :
    ∃ s₁ s₂ t₁ t₂, exec (.render 5 10) s₁ = .next t₁ ∧ exec (.render 5 10) s₂ = .next t₂ ∧ s₁ ≠ s₂ :=
  ⟨start [], start [ready], _, _, rfl, rfl, by decide⟩

theorem witness_PackedWordLayout : (∃ s, State.Emits s .packedWord 0 0) ∧ (∃ s, State.Emits s .packedWord 24 0) :=
  ⟨⟨startAt (.flush .packedWord 0 0) [ready], rfl, rfl, rfl⟩, ⟨startAt (.flush .packedWord 24 0) [ready], rfl, rfl, rfl⟩⟩

theorem witness_ByteTripletLayout :
    (∃ s, State.seq s = .flush .byteTriplet 0 0 ∧ NoReset s 3 ∧ AlwaysReady s 3) ∧
    (∃ s, State.seq s = .flush .byteTriplet 24 0 ∧ NoReset s 3 ∧ AlwaysReady s 3) :=
  ⟨⟨startAt (.flush .byteTriplet 0 0) [ready, ready, ready], rfl, by unfold NoReset; decide, by unfold AlwaysReady; decide⟩,
    ⟨startAt (.flush .byteTriplet 24 0) [ready, ready, ready], rfl, by unfold NoReset; decide, by unfold AlwaysReady; decide⟩⟩

theorem witness_EmitStepAdvances :
    (∃ s, State.Emits s .byteTriplet 24 1) ∧ (∃ s, State.Emits s .byteTriplet 23 2) ∧
    (∃ s, State.Emits s .packedWord 23 0) ∧ (∃ s, State.Emits s .byteTriplet 24 2) ∧ (∃ s, State.Emits s .packedWord 24 0) :=
  ⟨⟨startAt (.flush .byteTriplet 24 1) [ready], rfl, rfl, rfl⟩, ⟨startAt (.flush .byteTriplet 23 2) [ready], rfl, rfl, rfl⟩,
    ⟨startAt (.flush .packedWord 23 0) [ready], rfl, rfl, rfl⟩, ⟨startAt (.flush .byteTriplet 24 2) [ready], rfl, rfl, rfl⟩,
    ⟨startAt (.flush .packedWord 24 0) [ready], rfl, rfl, rfl⟩⟩

theorem witness_StalledFlushWaits :
    (∃ s, State.seq s = .flush .byteTriplet 24 1 ∧ NoReset s 2 ∧ ∀ k, k < 2 → (s.upcoming k).outReady = false) ∧
    (∃ s t, State.seq s = .flush .packedWord 24 0 ∧ s.ports.rst = false ∧ step s = .next t ∧ ¬ t.Flushing) := by
  refine ⟨⟨startAt (.flush .byteTriplet 24 1) [notReady, notReady], rfl, by unfold NoReset; decide, by decide⟩,
    startAt (.flush .packedWord 24 0) [ready], _, rfl, rfl, rfl, ?_⟩
  rintro ⟨_, _, _, h⟩
  cases (show Seq.idle = _ from h)

theorem witness_CompletedFlushEmitsExactlyItsFrame :
    (∃ s t, State.seq s = .flush .packedWord 0 0 ∧ NoReset s 26 ∧ FlushEndsIn s 26 t) ∧
    (∃ s t, State.seq s = .flush .byteTriplet 0 0 ∧ NoReset s 75 ∧ FlushEndsIn s 75 t) := by
  obtain ⟨t, ht⟩ := exists_flushEnd (n := 26)
    (s := startAt (.flush .packedWord 0 0) (notReady :: List.replicate 25 ready)) (by decide)
  obtain ⟨u, hu⟩ := exists_flushEnd (n := 75)
    (s := startAt (.flush .byteTriplet 0 0) (List.replicate 75 ready)) (by decide)
  exact ⟨⟨_, t, rfl, by unfold NoReset; decide, ht⟩, ⟨_, u, rfl, by unfold NoReset; decide, hu⟩⟩

theorem witness_FlushCompletesUnderReadySink :
    ∃ s, State.seq s = .flush .packedWord 24 0 ∧ NoReset s 26 ∧ frameLength .packedWord ≤ readyCount s 26 :=
  ⟨startAt (.flush .packedWord 24 0) (notReady :: List.replicate 25 ready), rfl, by unfold NoReset; decide, by decide⟩

theorem witness_UnstalledFlushTakesFrameLengthSteps :
    ∃ s, State.seq s = .flush .byteTriplet 0 0 ∧ NoReset s (frameLength .byteTriplet) ∧
      AlwaysReady s (frameLength .byteTriplet) :=
  ⟨startAt (.flush .byteTriplet 0 0) (List.replicate 75 ready), rfl, by unfold NoReset; decide,
    by unfold AlwaysReady; decide⟩

theorem witness_StepKeepsFlushInvariant :
    ∃ s t, FlushInv s ∧ step s = .next t ∧ s.seq = .flush .packedWord 1 0 ∧ s.out = [.word 0] := by
  refine ⟨{ startAt (.flush .packedWord 1 0) [ready] with out := [.word 0] }, _, ?_, rfl, rfl, rfl⟩
  intro fmode fi fp h
  cases h
  exact ⟨fun _ => rfl, [], by decide⟩

theorem witness_GuardRejectsUpToFiftyMs :
    (∃ s, MovesDigit .evtInc (State.digit s) 1 ∧ elapsedMs s.ports.now s.lastT = 50) ∧
    (∃ s, MovesDigit .evtDec (State.digit s) 9 ∧ elapsedMs s.ports.now s.lastT = 51) :=
  ⟨⟨start [ask 0 50], .inl ⟨rfl, rfl⟩, by decide⟩, ⟨start [ask 0 51], .inr ⟨rfl, rfl⟩, by decide⟩⟩

theorem witness_AcceptedIncrement : ∃ s : State, 50 < elapsedMs s.ports.now s.lastT := ⟨start [ask 0 51], by decide⟩

theorem witness_AcceptedDecrement : ∃ s : State, 50 < elapsedMs s.ports.now s.lastT ∧ s.digit = 0 :=
  ⟨start [ask 0 51], by decide, rfl⟩

theorem witness_RisingEdgeIsIgnored :
    ∃ s p rest, State.inputs s = p :: rest ∧ p.rst = false ∧ s.seq = .idle ∧ p.req = some (encode (.evtRise .decrement)) :=
  ⟨start [ask (encode (.evtRise .decrement)) 5], _, _, rfl, rfl, rfl, rfl⟩

theorem witness_OneTimerForBothButtons :
    ∃ (s t u : State) (d e : Fin 10), MovesDigit .evtInc s.digit d ∧ MovesDigit .evtDec u.digit e ∧
      50 < elapsedMs s.ports.now s.lastT ∧ exec .evtInc s = .next t ∧ u.lastT = t.lastT ∧
      elapsedMs u.ports.now s.ports.now ≤ 50 :=
  ⟨start [ask 0 100], _, { start [ask 0 150] with digit := 1, lastT := 100 }, 1, 0, .inl ⟨rfl, rfl⟩, .inr ⟨rfl, rfl⟩,
    by decide, rfl, by decide, by decide⟩

theorem witness_BounceIsNotAFault :
    (∃ s : State, s.Takes (encode .evtDec) ∧ elapsedMs s.ports.now s.lastT ≤ 50) ∧
    (∃ s : State, s.Takes (encode (.evtRise .increment))) :=
  ⟨⟨start [ask (encode .evtDec) 50], start_takes _ _ _, by decide⟩, ⟨_, start_takes _ 0 []⟩⟩

theorem witness_EventOutcomes :
    (∃ (s u t : State) (d' : Fin 10), s.Takes (encode .evtInc) ∧ MovesDigit .evtInc s.digit d' ∧
      50 < elapsedMs s.ports.now s.lastT ∧ NoReset s 26 ∧ step s = .next u ∧ FlushEndsIn u 25 t) ∧
    (∃ (s : State) (d' : Fin 10), s.Takes (encode .evtInc) ∧ MovesDigit .evtInc s.digit d' ∧
      elapsedMs s.ports.now s.lastT ≤ 50) ∧
    (∃ s : State, s.Takes (encode (.evtRise .increment))) := by
  have hs := start_takes (encode .evtInc) 51 (List.replicate 25 ready)
  obtain ⟨t, ht⟩ := exists_flushEnd (n := 25)
    (s := (acceptEvent 1 51 (start (ask (encode .evtInc) 51 :: List.replicate 25 ready))).advance) (by decide)
  have hm : MovesDigit .evtInc (start (ask (encode .evtInc) 51 :: List.replicate 25 ready)).digit 1 := .inl ⟨rfl, rfl⟩
  have ha : 50 < elapsedMs (start (ask (encode .evtInc) 51 :: List.replicate 25 ready)).ports.now
      (start (ask (encode .evtInc) 51 :: List.replicate 25 ready)).lastT := by decide
  exact ⟨⟨_, _, t, 1, hs, hm, ha, by unfold NoReset; decide,
      by rw [step_takes hs (i := .evtInc) (by decide), exec_accepted hm ha]; rfl, ht⟩,
    ⟨start [ask (encode .evtInc) 50], 1, start_takes _ _ _, .inl ⟨rfl, rfl⟩, by decide⟩, ⟨_, start_takes _ 0 []⟩⟩

theorem witness_AcceptedEventEqualsDirectOperations :
    ∃ (s t : State) (d' : Fin 10), MovesDigit .evtDec s.digit d' ∧ 50 < elapsedMs s.ports.now s.lastT ∧
      exec .evtDec s = .next t :=
  ⟨start [ask 0 51], _, 9, .inr ⟨rfl, rfl⟩, by decide, rfl⟩

theorem witness_FirstEventAfterReset :
    ∃ p₁ p₂ : PortInputs, p₁.rst = false ∧ p₁.req = some (encode .evtInc) ∧ p₁.now.toNat ≤ 50 ∧
      p₂.rst = false ∧ p₂.req = some (encode .evtDec) ∧ 51 ≤ p₂.now.toNat ∧
      MovesDigit .evtInc 0 1 ∧ MovesDigit .evtDec 0 9 :=
  ⟨ask (encode .evtInc) 50, ask (encode .evtDec) 51, rfl, rfl, by decide, rfl, rfl, by decide, .inl ⟨rfl, rfl⟩,
    .inr ⟨rfl, rfl⟩⟩

/-- Two events, and between them a step whose time port value is earlier and sampled by no event. -/
def twoEvents : State := start [ask 0x6000000000 50, ⟨false, none, 7, false⟩, ask 0x6000000001 60]

theorem run_twoEvents {k : Nat} {u : State} (hk : k < 3) (h : run k twoEvents = .next u) (hu : u.SamplesTime) :
    (k = 0 ∧ u.ports.now = 50) ∨ (k = 2 ∧ u.ports.now = 60) := by
  have hq : (twoEvents.upcoming k).req ≠ none := by
    rw [← ports_run k h]; rcases hu with hu | hu <;> simp [hu.2.2]
  rw [ports_run k h]
  rcases (by omega : k = 0 ∨ k = 1 ∨ k = 2) with rfl | rfl | rfl
  · exact .inl ⟨rfl, rfl⟩
  · exact absurd rfl hq
  · exact .inr ⟨rfl, rfl⟩

theorem witness_MonotonicTimeNeverWraps :
    ∃ s u : State, MonotonicTime s 3 ∧
      (∀ k u, k < 3 → run k s = .next u → u.SamplesTime → s.lastT.toNat ≤ u.ports.now.toNat) ∧ s.SamplesTime ∧
      run 2 s = .next u ∧ u.SamplesTime ∧ (s.upcoming 1).now.toNat < (s.upcoming 0).now.toNat := by
  refine ⟨twoEvents, _, ?_, fun k u hk hr _ => by simp [twoEvents, start, State.reset], .inl (start_takes _ _ _),
    rfl, .inr ⟨rfl, rfl, rfl⟩, by decide⟩
  intro j k t u hj hk ht hu st su
  rcases run_twoEvents (by omega) ht st with ⟨rfl, h⟩ | ⟨rfl, h⟩ <;>
    rcases run_twoEvents hk hu su with ⟨rfl, h'⟩ | ⟨rfl, h'⟩ <;> rw [h, h'] <;> first | omega | decide

theorem witness_TimerHoldsASampledTime :
    (∃ t, run 1 (start [ask 0x6000000000 60]) = .next t ∧ t.lastT = 60) ∧
    (∃ t, run 1 { start [rst] with lastT := 60 } = .next t ∧ t.lastT = 0) :=
  ⟨⟨_, rfl, by decide⟩, ⟨_, rfl, by decide⟩⟩

theorem witness_OnlyAcceptedEventsWriteDigitAndTimer :
    ∃ s t : State, s.ports.rst = false ∧ step s = .next t ∧ t.digit ≠ s.digit ∧ t.lastT ≠ s.lastT :=
  ⟨start [ask 0x6000000000 60], _, rfl, rfl, by decide, by decide⟩

theorem witness_PixelBufferWriters : ∃ s t : State, s.ports.rst = false ∧ step s = .next t ∧ t.pb ≠ s.pb :=
  ⟨start [ask 0x3003010203 0], _, rfl, rfl, by decide⟩

theorem witness_UnitsAreHandedOverExactlyOnce :
    (∃ s t : State, step s = .next t ∧ s.ports.rst = false ∧ s.seq = .flush .packedWord 24 0 ∧ s.ports.outReady = true) ∧
    (∃ s t : State, step s = .next t ∧ s.ports.rst = false ∧ s.seq = .flush .byteTriplet 0 2 ∧ s.ports.outReady = true) ∧
    (∃ s t : State, step s = .next t ∧ s.ports.rst = false ∧ s.seq = .flush .packedWord 24 0 ∧ s.ports.outReady = false) :=
  ⟨⟨startAt (.flush .packedWord 24 0) [ready], _, rfl, rfl, rfl, rfl⟩,
    ⟨startAt (.flush .byteTriplet 0 2) [ready], _, rfl, rfl, rfl, rfl⟩,
    ⟨startAt (.flush .packedWord 24 0) [notReady], _, rfl, rfl, rfl, rfl⟩⟩

theorem witness_OneResponsePerCompletedOperation :
    ∃ s t : State, s.ports.rst = false ∧ step s = .next t ∧ stepResponse s t = some ⟨.done, 0⟩ :=
  ⟨startAt (.flush .packedWord 24 0) [ready], _, rfl, rfl, by decide⟩

theorem witness_GhostHistoriesAreNotRead : ∃ s t : State, step s = .next t ∧ t.out ≠ s.out ∧ t.rsp ≠ s.rsp :=
  ⟨startAt (.flush .packedWord 24 0) [ready], _, rfl, by decide, by decide⟩

theorem witness_OutputIsFramesInOrder :
    (∃ s t : State, s.seq = .idle ∧ NoReset s 2 ∧ run 2 s = .next t ∧ t.Flushing) ∧
    (∃ s t : State, s.seq = .idle ∧ NoReset s 1 ∧ run 1 s = .next t ∧ ¬ t.Flushing) := by
  refine ⟨⟨start [ask 0x5000000000 0, ready], _, rfl, by unfold NoReset; decide, rfl, .packedWord, 1, 0, by decide⟩,
    start [ask 0x2000000000 0], _, rfl, by unfold NoReset; decide, rfl, ?_⟩
  rintro ⟨_, _, _, h⟩
  cases (show Seq.idle = _ from h)

/-- The last unit of a frame, the sink ready only in the second step, a CLEAR held meanwhile. -/
def lastUnit : State := startAt (.flush .packedWord 24 0)
  [⟨false, some 0x2000000000, 0, false⟩, ⟨false, some 0x2000000000, 0, true⟩, ask 0x2000000000 0]

/-- Its flush has ended after two steps. -/
theorem flushLasts_lastUnit {k : Nat} (h : FlushLasts lastUnit k) : k ≤ 2 := by
  by_contra hk
  obtain ⟨_, _, _, hf⟩ := h 2 (by omega) _ rfl
  cases (show Seq.idle = _ from hf)

theorem lastUnit_noFault : lastUnit.NoFault := by
  intro code h
  cases (show Seq.flush .packedWord 24 0 = _ from h)

theorem lastUnit_fair : SinkWeaklyFair lastUnit := fun k hl =>
  ⟨1, by have := flushLasts_lastUnit hl; omega, rfl⟩

theorem lastUnit_holds : HoldsRequest lastUnit 0x2000000000 := by
  intro k hl
  have := flushLasts_lastUnit hl
  rcases (by omega : k = 0 ∨ k = 1 ∨ k = 2) with rfl | rfl | rfl <;> exact ⟨rfl, rfl⟩

theorem witness_WeaklyFairSinkCompletesTheFlush :
    ∃ s, State.seq s = .flush .packedWord 24 0 ∧ NoResetDuringFlush s ∧ SinkWeaklyFair s ∧ s.ports.outReady = false :=
  ⟨lastUnit, rfl, holdsRequest_noReset lastUnit_holds, lastUnit_fair, rfl⟩

theorem witness_HeldRequestIsTaken :
    ∃ s req, State.NoFault s ∧ SinkWeaklyFair s ∧ HoldsRequest s req ∧ s.Flushing :=
  ⟨lastUnit, _, lastUnit_noFault, lastUnit_fair, lastUnit_holds,
    _, _, _, rfl⟩

theorem witness_ProductBufferShowsCurrentDigit :
    ∃ s t : State, ShowsDigit s ∧ OnlyEvents s 1 ∧ run 1 s = .next t ∧ t.digit = 1 := by
  refine ⟨start [ask 0x6000000000#40 60], _, .inl ⟨rfl, ?_⟩, onlyEvents_of_one _ _ (by decide), rfl, by decide⟩
  decide

end Sys2Proof.Tests
end

section
/-! The family of 00_scope.md: the configuration (R8). The induction over a run is packaged once, for any property
that every step keeps. -/

namespace Sys2Proof.Machine

/-- What every step keeps, every run keeps. -/
theorem run_keeps {P : State → Prop} (keeps : ∀ {s t : State}, step s = .next t → P s → P t) (n : Nat) :
    ∀ {s t : State}, run n s = .next t → P s → P t := by
  induction n with
  | zero => intro s t h hs; cases h; exact hs
  | succ n ih =>
    intro s t h hs
    obtain ⟨u, hu, hr⟩ := run_step h
    exact ih hr (keeps hu hs)

/-- No operation touches the configuration or the environment. -/
theorem execOutcome_surroundings {i : Instr} {s t : State} (h : ExecOutcome i s t) : SameSurroundings s t := by
  cases h <;> simp [SameSurroundings]

theorem exec_cfg {i : Instr} {s t : State} (h : exec i s = .next t) : t.cfg = s.cfg :=
  (execOutcome_surroundings (exec_cases h)).1

theorem step_cfg {s t : State} (h : step s = .next t) : t.cfg = s.cfg := by
  obtain ⟨u, rfl, ho⟩ := step_cases h
  rw [State.advance_cfg, (stepOutcome_surroundings ho).1]

theorem run_cfg {n : Nat} {s t : State} (h : run n s = .next t) : t.cfg = s.cfg :=
  run_keeps (P := fun u => u.cfg = s.cfg) (fun hstep hu => (step_cfg hstep).trans hu) n h rfl

/-- Settles O9: `exec` by its inversion, runs by induction from the same fact about one step. -/
theorem configurationNeverWritten : Obligations.ConfigurationNeverWritten :=
  ⟨fun _ _ _ => exec_cfg, fun _ _ _ => run_cfg⟩

end Sys2Proof.Machine
end

section
/-! The family of 20_memory.md: the wire order of a pixel's channels (R40 to R42), in mode `W` the fields of one
word, in mode `B` the units of three `emit` steps with the sink ready. -/

namespace Sys2Proof.Machine

/-! ### The `emit` step, the environment's move included -/

/-- What the step hands over and what it leaves alone (R98). -/
theorem emitStep_advance_frame (fmode : WireMode) (fi : Fin 25) (fp : Fin 3) (s : State) :
    SameRegisters s (emitStep fmode fi fp s).advance ∧ (emitStep fmode fi fp s).advance.cfg = s.cfg ∧
    (emitStep fmode fi fp s).advance.out = s.out ++ [unitOf fmode s.pb[fi] fp] := by
  simp [SameRegisters, pbufRead]

/-! ### The packed word -/

/-- The fields of the packed word, most significant first (R41). -/
theorem packWord_fields (px : Pixel) :
    (packWord px).extractLsb' 24 8 = px.g ∧ (packWord px).extractLsb' 16 8 = px.r ∧
    (packWord px).extractLsb' 8 8 = px.b ∧ (packWord px).extractLsb' 0 8 = 0#8 := by
  rw [packWord_eq_append]
  refine ⟨?_, ?_, ?_, BitVec.extractLsb'_append_eq_right⟩
  · rw [BitVec.extractLsb'_append_eq_of_le (by decide), BitVec.extractLsb'_append_eq_of_le (by decide)]
    exact BitVec.extractLsb'_append_eq_left
  · rw [BitVec.extractLsb'_append_eq_of_le (by decide), BitVec.extractLsb'_append_eq_of_le (by decide)]
    exact BitVec.extractLsb'_append_eq_right
  · rw [BitVec.extractLsb'_append_eq_of_le (by decide)]
    exact BitVec.extractLsb'_append_eq_right

/-- Settles O29: the emitted unit is the packed word, and its fields are `packWord_fields`. -/
theorem packedWordLayout : Obligations.PackedWordLayout := by
  intro s fi hemits
  obtain ⟨hregs, hcfg, hout⟩ := emitStep_advance_frame .packedWord fi 0 s
  obtain ⟨hg, hr, hb, hz⟩ := packWord_fields s.pb[fi]
  exact ⟨_, packWord s.pb[fi], step_emits hemits, hout, hg, hr, hb, hz, packWord_eq_append _, hregs, hcfg⟩

/-! ### The sequencer after an `emit` step of mode `B` -/

/-- Green and red are followed by the next phase of the same pixel (R98). -/
theorem emitStep_seq_nextPhase (fi : Fin 25) {fp : Fin 3} (h : fp.val < 2) (s : State) :
    (emitStep .byteTriplet fi fp s).seq = .flush .byteTriplet fi ⟨fp.val + 1, by omega⟩ := by
  have ho := emitStep_outcome .byteTriplet fi fp s
  generalize emitStep .byteTriplet fi fp s = t at ho
  cases ho with
  | phase => rfl
  | pixel _ hlast | completes _ hlast =>
    have hblue : fp.val = 2 := hlast.resolve_left (by decide)
    omega

/-- Blue is followed by the next pixel, and after pixel 24 by IDLE (R98, R99). -/
theorem emitStep_seq_afterBlue (fi : Fin 25) (s : State) :
    (∀ h : fi.val < 24, (emitStep .byteTriplet fi 2 s).seq = .flush .byteTriplet ⟨fi.val + 1, by omega⟩ 0) ∧
    (fi.val = 24 → (emitStep .byteTriplet fi 2 s).seq = .idle) := by
  have ho := emitStep_outcome .byteTriplet fi 2 s
  generalize emitStep .byteTriplet fi 2 s = t at ho
  cases ho with
  | phase h => exact absurd h (by decide)
  | pixel h => exact ⟨fun _ => rfl, fun h' => by omega⟩
  | completes h => exact ⟨fun h' => by omega, fun _ => rfl⟩

/-! ### A flush whose sink is ready, one step on -/

theorem noReset_step {s t : State} {n : Nat} (h : step s = .next t) (hn : NoReset s (n + 1)) : NoReset t n :=
  fun k hk => by rw [upcoming_step h]; exact hn (k + 1) (by omega)

theorem alwaysReady_step {s t : State} {n : Nat} (h : step s = .next t) (hr : AlwaysReady s (n + 1)) :
    AlwaysReady t n :=
  fun k hk => by rw [upcoming_step h]; exact hr (k + 1) (by omega)

/-- A flush with the sink ready and no reset emits in the coming step. -/
theorem emits_of_alwaysReady {s : State} {fmode : WireMode} {fi : Fin 25} {fp : Fin 3} {n : Nat}
    (hs : s.seq = .flush fmode fi fp) (hn : NoReset s (n + 1)) (hr : AlwaysReady s (n + 1)) :
    s.Emits fmode fi fp := by
  refine ⟨?_, hs, ?_⟩ <;> rw [ports_eq_upcoming_zero]
  · exact hn 0 (by omega)
  · exact hr 0 (by omega)

/-- One step of a flush in mode `B` with the sink ready: the byte of the phase is handed over, nothing else but the
sequencer moves, and what is known of the environment holds one step on. -/
theorem readyByte_step {s : State} {fi : Fin 25} {fp : Fin 3} {n : Nat} (hs : s.seq = .flush .byteTriplet fi fp)
    (hn : NoReset s (n + 1)) (hr : AlwaysReady s (n + 1)) :
    ∃ t, step s = .next t ∧ t.seq = (emitStep .byteTriplet fi fp s).seq ∧
      t.out = s.out ++ [.byte (phaseByte s.pb[fi] fp)] ∧ SameRegisters s t ∧ t.cfg = s.cfg ∧
      NoReset t n ∧ AlwaysReady t n := by
  have hstep := step_emits (emits_of_alwaysReady hs hn hr)
  obtain ⟨hregs, hcfg, hout⟩ := emitStep_advance_frame .byteTriplet fi fp s
  exact ⟨_, hstep, State.advance_seq _, hout, hregs, hcfg, noReset_step hstep hn, alwaysReady_step hstep hr⟩

theorem sameRegisters_trans {s t u : State} (h : SameRegisters s t) (k : SameRegisters t u) : SameRegisters s u := by
  obtain ⟨hpb, hdigit, hlastT⟩ := h
  obtain ⟨kpb, kdigit, klastT⟩ := k
  exact ⟨kpb.trans hpb, kdigit.trans hdigit, klastT.trans hlastT⟩

/-- Settles O30: the steps of green, red and blue one after the other; each reads the pixel of the buffer the first
one saw (R46). -/
theorem byteTripletLayout : Obligations.ByteTripletLayout := by
  intro s fi hseq hreset hready
  obtain ⟨t, hst, hseqT, houtT, hregsT, hcfgT, hresetT, hreadyT⟩ := readyByte_step hseq hreset hready
  rw [emitStep_seq_nextPhase fi (by decide)] at hseqT
  obtain ⟨u, htu, hseqU, houtU, hregsU, hcfgU, hresetU, hreadyU⟩ := readyByte_step hseqT hresetT hreadyT
  rw [emitStep_seq_nextPhase fi (by decide)] at hseqU
  obtain ⟨v, huv, hseqV, houtV, hregsV, hcfgV, -, -⟩ := readyByte_step hseqU hresetU hreadyU
  have hrun : run 3 s = .next v := by rw [run_succ hst, run_succ htu, run_succ huv, run_zero]
  have hregsSU := sameRegisters_trans hregsT hregsU
  have hpbT : t.pb = s.pb := hregsT.1
  have hpbU : u.pb = s.pb := hregsSU.1
  obtain ⟨hnext, hlast⟩ := emitStep_seq_afterBlue fi u
  refine ⟨v, hrun, ?_, fun h => hseqV.trans (hnext h), fun h => hseqV.trans (hlast h),
    sameRegisters_trans hregsSU hregsV, hcfgV.trans (hcfgU.trans hcfgT)⟩
  rw [houtV, houtU, houtT, hpbU, hpbT]
  simp [phaseByte]

end Sys2Proof.Machine
end

section
/-! The family of 40_glyph_table.md: LOOKUP of a legal digit (R80, R82). The operation reads the configuration only,
and no run writes it (`run_cfg`). -/

namespace Sys2Proof.Machine

/-- LOOKUP of a legal digit is its response and nothing else (R80). -/
theorem exec_lookup_legal {d : BitVec 4} (h : d.toNat < 10) (s : State) :
    exec (.lookup d) s = .next (finish .done s.cfg.glyph[d.toNat] s) := by
  simp only [exec, execLookup, digitOperand_some h, gromRead, Fin.getElem_fin]

/-- A response leaves the registers and the surroundings alone (R67). -/
theorem finish_frame (status : Status) (value : Pattern) (s : State) :
    SameRegisters s (finish status value s) ∧ SameSurroundings s (finish status value s) := by
  simp [SameRegisters, SameSurroundings]

/-- Settles O20: the response is the glyph of the configuration, which is the same in every state a run reaches. -/
theorem lookupRespondsStableGlyph : Obligations.LookupRespondsStableGlyph := by
  intro d s h
  obtain ⟨hregs, hsurr⟩ := finish_frame .done s.cfg.glyph[d.toNat] s
  refine ⟨⟨_, exec_lookup_legal h s, finish_rsp _ _ _, BitVec.isLt _, finish_seq _ _ _, hregs, hsurr,
    finish_out _ _ _⟩, ?_⟩
  intro n u hrun
  exact ⟨_, exec_lookup_legal h u, by simp only [finish_rsp, run_cfg hrun]⟩

end Sys2Proof.Machine
end

section
/-! The family of 41_pixel_buffer.md: CLEAR (R85), its one request word and the dark buffer it writes. -/

namespace Sys2Proof.Machine

/-! ### CLEAR's one request word (R62, R65) -/

/-- A request word is its operation code and the 36 bits below (R62). -/
theorem opField_append_low (req : Request) : opField req ++ req.extractLsb' 0 36 = req := by
  rw [opField, BitVec.extractLsb'_append_extractLsb'_eq_extractLsb' (by decide)]
  exact BitVec.extractLsb'_eq_self

/-- Another word of CLEAR's operation code has a nonzero reserved bit (R65). -/
theorem decode_clearOp_reserved {req : Request} (hop : opField req = 2#4) (hne : req ≠ encode .clear) :
    decode req = .error .reservedBit := by
  have hlow : req.extractLsb' 0 36 ≠ 0#36 := by
    intro hzero
    apply hne
    rw [← opField_append_low req, hop, hzero, encode]
  simp [decode, decodeN, hop, hlow]

/-- The step that takes a reserved word is the fault `F_REQ` (R65, R122). -/
theorem step_takes_reserved {s : State} {req : Request} {e : Reserved} (h : s.Takes req)
    (hd : decode req = .error e) : step s = .next (raiseFault .fReq s).advance := by
  obtain ⟨hrst, hseq, hreq⟩ := h
  simp [step, blockStep, hrst, hseq, hreq, takeRequest, hd, onNext]

/-! ### The dark buffer -/

/-- The frame in mode `W` is the packed words of the pixels in order (R96, R100). -/
theorem frame_packedWord (pb : PixelBuffer) :
    frame .packedWord pb = pb.toList.map fun px => .word (packWord px) :=
  List.map_eq_flatMap.symm

theorem packWord_dark : packWord ⟨0, 0, 0⟩ = 0#32 := by decide

theorem clearBuffer_getElem (i : Fin 25) : clearBuffer[i] = ⟨0, 0, 0⟩ := by
  simp [clearBuffer]

/-- The dark buffer's frame in mode `W` (R41, R100). -/
theorem frame_packedWord_clearBuffer : frame .packedWord clearBuffer = List.replicate 25 (.word 0#32) := by
  rw [frame_packedWord, clearBuffer, Vector.toList_replicate, List.map_replicate, packWord_dark]

/-- A write of the whole buffer followed by the response leaves the rest of the state alone (R13, R67). -/
theorem finish_pbufWriteAll_frame (pb : PixelBuffer) (status : Status) (value : Pattern) (s : State) :
    (finish status value (pbufWriteAll pb s)).digit = s.digit ∧
    (finish status value (pbufWriteAll pb s)).lastT = s.lastT ∧
    (finish status value (pbufWriteAll pb s)).out = s.out ∧
    SameSurroundings s (finish status value (pbufWriteAll pb s)) := by
  simp [SameSurroundings]

/-- CLEAR writes the dark buffer and responds (R85). -/
theorem exec_clear (s : State) : exec .clear s = .next (finish .done 0 (pbufWriteAll clearBuffer s)) := rfl

/-- Settles O22: another word of CLEAR's operation code is rejected by the decoder, and CLEAR itself is a write of
the dark buffer and the response. -/
theorem clearSetsEveryPixelDark : Obligations.ClearSetsEveryPixelDark := by
  refine ⟨by decide, ?_, ?_⟩
  · intro s req htakes hop hne
    have hd : decode req = .error .reservedBit := decode_clearOp_reserved hop hne
    exact ⟨_, step_takes_reserved htakes hd, by rw [State.advance_seq, raiseFault_seq]⟩
  · intro s
    obtain ⟨hdigit, hlastT, hout, hsurr⟩ := finish_pbufWriteAll_frame clearBuffer .done 0 s
    exact ⟨_, exec_clear s, clearBuffer_getElem, finish_rsp _ _ _, finish_seq _ _ _, hdigit, hlastT, hout, hsurr,
      rfl, frame_packedWord_clearBuffer⟩

end Sys2Proof.Machine
end

section
/-! The family of 43_serializer.md: a stalled flush (R101). A stalled step is the environment's move alone, and a run
of them is an induction over their number; the end of a flush is the inversion of its `emit` step. -/

namespace Sys2Proof.Machine

/-! ### What the environment's move leaves alone -/

/-- The block's own state is the same: the sequencer, the registers and the histories. -/
def SameBlock (s t : State) : Prop := t.seq = s.seq ∧ SameRegisters s t ∧ t.out = s.out ∧ t.rsp = s.rsp

theorem sameBlock_refl (s : State) : SameBlock s s := ⟨rfl, ⟨rfl, rfl, rfl⟩, rfl, rfl⟩

theorem sameBlock_trans {s t u : State} (h : SameBlock s t) (k : SameBlock t u) : SameBlock s u := by
  obtain ⟨hseq, hregs, hout, hrsp⟩ := h
  obtain ⟨kseq, kregs, kout, krsp⟩ := k
  exact ⟨kseq.trans hseq, sameRegisters_trans hregs kregs, kout.trans hout, krsp.trans hrsp⟩

theorem sameBlock_advance (s : State) : SameBlock s s.advance := by
  simp [SameBlock, SameRegisters]

/-! ### The output ports, from the block's state -/

/-- The offered unit is a function of the sequencer and the buffer (R68). -/
theorem offered_congr {s t : State} (hseq : t.seq = s.seq) (hpb : t.pb = s.pb) : t.offered = s.offered := by
  simp only [State.offered, pbufRead, hseq, hpb]

/-- No request is taken during a flush (R60). -/
theorem reqReady_of_flush {s : State} {fmode : WireMode} {fi : Fin 25} {fp : Fin 3}
    (hs : s.seq = .flush fmode fi fp) : s.reqReady = false := by
  simp only [State.reqReady, hs]

/-! ### Stalled steps -/

/-- A step of a flush with the sink not ready is the environment's move alone (R26, R101). -/
theorem step_stalls {s : State} {fmode : WireMode} {fi : Fin 25} {fp : Fin 3} (hs : s.seq = .flush fmode fi fp)
    (hrst : s.ports.rst = false) (hready : s.ports.outReady = false) : step s = .next s.advance := by
  simp [step, blockStep, hrst, hs, hready, onNext]

/-- A flush stalled through `n` steps keeps the block's whole state (R101). -/
theorem run_stalls {fmode : WireMode} {fi : Fin 25} {fp : Fin 3} (n : Nat) : ∀ {s : State},
    s.seq = .flush fmode fi fp → NoReset s n → (∀ k, k < n → (s.upcoming k).outReady = false) →
    ∃ t, run n s = .next t ∧ SameBlock s t := by
  induction n with
  | zero => intro s _ _ _; exact ⟨s, run_zero s, sameBlock_refl s⟩
  | succ n ih =>
    intro s hs hreset hready
    have hstep : step s = .next s.advance := by
      apply step_stalls hs <;> rw [ports_eq_upcoming_zero]
      · exact hreset 0 (by omega)
      · exact hready 0 (by omega)
    have hready' : ∀ k, k < n → (s.advance.upcoming k).outReady = false := fun k hk => by
      rw [upcoming_advance]; exact hready (k + 1) (by omega)
    obtain ⟨t, hrun, hsame⟩ := ih ((State.advance_seq s).trans hs) (noReset_step hstep hreset) hready'
    exact ⟨t, (run_succ hstep n).trans hrun, sameBlock_trans (sameBlock_advance s) hsame⟩

/-! ### The end of a flush -/

/-- An `emit` step that leaves FLUSH has handed over the last unit of pixel 24 (R98, R99). -/
theorem emitStep_ends {fmode : WireMode} {fi : Fin 25} {fp : Fin 3} {s : State}
    (h : ¬ (emitStep fmode fi fp s).Flushing) :
    fi.val = 24 ∧ (fmode = .packedWord ∨ fp.val = 2) ∧ (emitStep fmode fi fp s).seq = .idle := by
  have ho := emitStep_outcome fmode fi fp s
  generalize emitStep fmode fi fp s = t at h ho
  cases ho with
  | phase | pixel => exact absurd ⟨_, _, _, setSeq_seq _ _⟩ h
  | completes hfi hlast => exact ⟨hfi, hlast, finish_seq _ _ _⟩

theorem flushing_advance_iff (s : State) : s.advance.Flushing ↔ s.Flushing := by
  simp only [State.Flushing, State.advance_seq]

/-- A step without reset that ends a flush is the `emit` step of its last unit (R99, R101). -/
theorem step_ends_flush {s t : State} {fmode : WireMode} {fi : Fin 25} {fp : Fin 3} (hs : s.seq = .flush fmode fi fp)
    (hrst : s.ports.rst = false) (hstep : step s = .next t) (hend : ¬ t.Flushing) :
    s.ports.outReady = true ∧ fi.val = 24 ∧ (fmode = .packedWord ∨ fp.val = 2) ∧ t.seq = .idle := by
  cases hready : s.ports.outReady with
  | false =>
    cases (step_stalls hs hrst hready).symm.trans hstep
    exact absurd ((flushing_advance_iff s).mpr ⟨_, _, _, hs⟩) hend
  | true =>
    cases (step_emits ⟨hrst, hs, hready⟩).symm.trans hstep
    rw [flushing_advance_iff] at hend
    rw [State.advance_seq]
    exact ⟨rfl, emitStep_ends hend⟩

/-- Settles O33: the stall by induction over its steps, the end of the flush by inversion of the step. -/
theorem stalledFlushWaits : Obligations.StalledFlushWaits := by
  refine ⟨?_, fun _ _ _ _ _ => step_ends_flush⟩
  intro n s fmode fi fp hs hreset hready
  obtain ⟨t, hrun, hseq, hregs, hout, hrsp⟩ := run_stalls n hs hreset hready
  have hflush : t.seq = .flush fmode fi fp := hseq.trans hs
  exact ⟨t, hrun, hflush, offered_congr hseq hregs.1, hregs, hout, hrsp, reqReady_of_flush hflush⟩

end Sys2Proof.Machine
end

section
/-! The family of 44_debounce.md: the guard's boundary (R106) and the one timer of both buttons (R111). A rejected
event is the response `REJECTED` (`exec_rejected`); an accepted one is `acceptEvent` (`exec_accepted`). -/

namespace Sys2Proof.Machine

/-- A rejected event is the response `REJECTED` and nothing else, whichever button (R106, R124). -/
theorem exec_rejected_frame {i : Instr} {s : State} {d' : Fin 10} (h : MovesDigit i s.digit d')
    (he : elapsedMs s.ports.now s.lastT ≤ 50) :
    ∃ t, exec i s = .next t ∧ SameRegisters s t ∧ t.seq = .idle ∧ t.out = s.out ∧
      t.rsp = s.rsp ++ [⟨.rejected, 0⟩] :=
  ⟨_, exec_rejected h he, (finish_frame _ _ s).1, finish_seq _ _ _, finish_out _ _ _, finish_rsp _ _ _⟩

/-- An accepted event takes the sampled time as its timestamp, whichever button (R107, R108, R111). -/
theorem exec_accepted_lastT {i : Instr} {s t : State} {d' : Fin 10} (h : MovesDigit i s.digit d')
    (he : 50 < elapsedMs s.ports.now s.lastT) (hexec : exec i s = .next t) : t.lastT = s.ports.now := by
  cases (exec_accepted h he).symm.trans hexec
  exact acceptEvent_lastT _ _ _

/-- Settles O40: the two sides of the guard. -/
theorem guardRejectsUpToFiftyMs : Obligations.GuardRejectsUpToFiftyMs := by
  intro s i d' hmove
  refine ⟨exec_rejected_frame hmove, fun he => ?_⟩
  exact ⟨_, exec_accepted hmove he, acceptEvent_lastT _ _ _, acceptEvent_digit _ _ _, movesDigit_ne hmove⟩

/-- Settles O44: the accepted event leaves its own time in the timer, and the second event is measured against that
time, whichever buttons the two are of. -/
theorem oneTimerForBothButtons : Obligations.OneTimerForBothButtons := by
  intro i j s t u d e hfirst hsecond haccepted hexec htimer hsoon
  have hlastT : u.lastT = s.ports.now := htimer.trans (exec_accepted_lastT hfirst haccepted hexec)
  obtain ⟨v, hv, hregs, -, hout, hrsp⟩ := exec_rejected_frame hsecond (hlastT ▸ hsoon)
  exact ⟨v, hv, hregs, hout, hrsp⟩

end Sys2Proof.Machine
end

section
/-! The family of 60_exceptions.md: what is not a fault (R124). A rejected bounce and an ignored rising edge are both a
`take` step whose operation is one response (`finish`), so both are the one lemma `step_responds`. -/

namespace Sys2Proof.Machine

/-! ### The request words of the events (R64) -/

theorem decode_encode_evtInc : decode (encode .evtInc) = .ok .evtInc := by decide

theorem decode_encode_evtDec : decode (encode .evtDec) = .ok .evtDec := by decide

theorem decode_encode_evtRise (src : Source) : decode (encode (.evtRise src)) = .ok (.evtRise src) := by
  cases src <;> decide

/-! ### An operation that is one response -/

/-- The block in IDLE is ready and reports no fault (R60, R67). -/
theorem idle_ports {s : State} (h : s.seq = .idle) : s.faultLine = false ∧ s.reqReady = true := by
  simp [State.faultLine, State.faultCode, State.reqReady, h]

/-- The step that takes an operation which only responds: its response, no other change, and the block ready for the
next request (R67, R132). -/
theorem step_responds {s : State} {i : Instr} {status : Status} {value : Pattern} (h : s.Takes (encode i))
    (hd : decode (encode i) = .ok i) (hexec : exec i s = .next (finish status value s)) :
    ∃ t, step s = .next t ∧ t.rsp = s.rsp ++ [⟨status, value⟩] ∧ SameRegisters s t ∧ t.out = s.out ∧
      t.seq = .idle ∧ t.faultLine = false ∧ t.reqReady = true := by
  have hstep : step s = .next (finish status value s).advance := by rw [step_takes h hd, hexec]; rfl
  have hidle : (finish status value s).advance.seq = .idle := State.advance_seq _
  exact ⟨_, hstep, State.advance_rsp _, by simp [SameRegisters], State.advance_out _, hidle, idle_ports hidle⟩

/-- Settles O45: inside the window an event of either button is the response `REJECTED` (`exec_rejected`), and a rising
edge is the response `IGNORED`. -/
theorem bounceIsNotAFault : Obligations.BounceIsNotAFault := by
  intro s i htakes
  constructor
  · rintro ⟨rfl | rfl, hbounce⟩
    · exact step_responds htakes decode_encode_evtInc (exec_rejected (movesDigit_evtInc _) hbounce)
    · exact step_responds htakes decode_encode_evtDec (exec_rejected (movesDigit_evtDec _) hbounce)
  · rintro ⟨src, rfl⟩
    exact step_responds htakes (decode_encode_evtRise src) rfl

end Sys2Proof.Machine
end

section
/-! The family of 30_encoding.md, continued: the decoder and the encoder are each other's inverse (R62, R63), and the
opcode map is read off the encodings: every word a row selects is the encoding of an operation of that row (R64). -/

namespace Sys2Proof

/-! ### Decoding an encoding -/

theorem decode_encode_setpx (idx : BitVec 5) (r g b : Channel) :
    decode (encode (.setpx idx r g b)) = .ok (.setpx idx r g b) := by
  have hop : opField (encode (.setpx idx r g b)) = 0x3#4 := by
    simp (disch := omega) only [encode, opField, BitVec.extractLsb'_append_eq_of_le]
    decide
  have hreserved : (encode (.setpx idx r g b)).extractLsb' 29 7 = 0#7 := by
    simp (disch := omega) only [encode, BitVec.extractLsb'_append_eq_of_le]
    decide
  have hidx : (encode (.setpx idx r g b)).extractLsb' 24 5 = idx := by
    simp (disch := omega) only [encode, BitVec.extractLsb'_append_eq_of_le]
    exact BitVec.extractLsb'_append_eq_right
  have hr : (encode (.setpx idx r g b)).extractLsb' 16 8 = r := by
    simp (disch := omega) only [encode, BitVec.extractLsb'_append_eq_of_le]
    exact BitVec.extractLsb'_append_eq_right
  have hg : (encode (.setpx idx r g b)).extractLsb' 8 8 = g := by
    simp (disch := omega) only [encode, BitVec.extractLsb'_append_eq_of_le]
    exact BitVec.extractLsb'_append_eq_right
  have hb : (encode (.setpx idx r g b)).extractLsb' 0 8 = b := BitVec.extractLsb'_append_eq_right
  simp [decode, decodeP, hop, hreserved, hidx, hr, hg, hb]

theorem decode_encode_render (pattern : Pattern) (inten : Channel) :
    decode (encode (.render pattern inten)) = .ok (.render pattern inten) := by
  have hop : opField (encode (.render pattern inten)) = 0x4#4 := by
    simp (disch := omega) only [encode, opField, BitVec.extractLsb'_append_eq_of_le]
    decide
  have hreserved : (encode (.render pattern inten)).extractLsb' 33 3 = 0#3 := by
    simp (disch := omega) only [encode, BitVec.extractLsb'_append_eq_of_le]
    decide
  have hinten : (encode (.render pattern inten)).extractLsb' 25 8 = inten := by
    simp (disch := omega) only [encode, BitVec.extractLsb'_append_eq_of_le]
    exact BitVec.extractLsb'_append_eq_right
  have hpattern : (encode (.render pattern inten)).extractLsb' 0 25 = pattern := BitVec.extractLsb'_append_eq_right
  simp [decode, decodeR, hop, hreserved, hinten, hpattern]

theorem decode_encode (i : Instr) : decode (encode i) = .ok i := by
  cases i with
  | lookup d => revert d; decide
  | clear => decide
  | setpx idx r g b => exact decode_encode_setpx idx r g b
  | render pattern inten => exact decode_encode_render pattern inten
  | flushW => decide
  | flushB => decide
  | evtInc => exact Machine.decode_encode_evtInc
  | evtDec => exact Machine.decode_encode_evtDec
  | evtRise src => exact Machine.decode_encode_evtRise src

/-- No two operations share a request word. -/
theorem encode_injective {i j : Instr} (h : encode i = encode j) : i = j := by
  have hok : Except.ok i = (.ok j : Except Reserved Instr) := by rw [← decode_encode i, h, decode_encode j]
  exact Except.ok.inj hok

/-! ### Every word a row selects is an encoding -/

/-- A word is its part above bit `k` and its part below. -/
theorem request_split (req : Request) (k n : Nat) (h : 40 = n + k) :
    req = (req.extractLsb' k n ++ req.extractLsb' 0 k).cast h.symm := by
  have hk : k = 0 + k := by omega
  rw [BitVec.extractLsb'_append_extractLsb'_eq_extractLsb' hk]
  ext i hi
  simp [BitVec.getLsbD_eq_getElem, hi]

theorem lookup_of_high {req : Request} (h : req.extractLsb' 4 36 = 0x100000000#36) :
    encode (.lookup (req.extractLsb' 0 4)) = req := by
  have hsplit := request_split req 4 36 rfl
  rw [h] at hsplit
  exact hsplit.symm

theorem rise_of_high {req : Request} (h : req.extractLsb' 1 39 = 0x3000000001#39) :
    encode (.evtRise (Source.ofBit (req.extractLsb' 0 1))) = req := by
  have hsplit := request_split req 1 39 rfl
  rw [h] at hsplit
  conv_rhs => rw [hsplit]
  generalize req.extractLsb' 0 1 = src
  revert src
  decide

theorem setpx_of_high {req : Request} (h : req.extractLsb' 29 11 = 0x180#11) :
    encode (.setpx (req.extractLsb' 24 5) (req.extractLsb' 16 8) (req.extractLsb' 8 8) (req.extractLsb' 0 8)) =
      req := by
  have hhigh : req.extractLsb' 36 4 ++ req.extractLsb' 29 7 = 0x3#4 ++ 0#7 := by
    rw [BitVec.extractLsb'_append_extractLsb'_eq_extractLsb' (by decide : 36 = 29 + 7), h]
    decide
  rw [encode, ← hhigh, ← request_formatP req]

theorem render_of_high {req : Request} (h : req.extractLsb' 33 7 = 0x20#7) :
    encode (.render (req.extractLsb' 0 25) (req.extractLsb' 25 8)) = req := by
  have hhigh : req.extractLsb' 36 4 ++ req.extractLsb' 33 3 = 0x4#4 ++ 0#3 := by
    rw [BitVec.extractLsb'_append_extractLsb'_eq_extractLsb' (by decide : 36 = 33 + 3), h]
    decide
  rw [encode, ← hhigh, ← request_formatR req]

/-- Every word that a row of the opcode map selects is the encoding of an operation with that row's mnemonic (R64). -/
theorem encode_of_selects {row : OpRow} {req : Request} (hrow : row ∈ opcodeMap) (h : row.selects req = true) :
    ∃ i : Instr, encode i = req ∧ i.mnemonic = row.mnemonic := by
  have hsel : req &&& row.mask = row.pattern := of_decide_eq_true h
  simp only [opcodeMap, List.mem_cons, List.not_mem_nil, or_false] at hrow
  rcases hrow with rfl | rfl | rfl | rfl | rfl | rfl | rfl | rfl | rfl
  · exact ⟨_, lookup_of_high ((lookupRow_iff req).mp hsel), rfl⟩
  · exact ⟨.clear, ((fullRow_iff req _).mp hsel).symm, rfl⟩
  · exact ⟨_, setpx_of_high ((setpxRow_iff req).mp hsel), rfl⟩
  · exact ⟨_, render_of_high ((renderRow_iff req).mp hsel), rfl⟩
  · exact ⟨.flushW, ((fullRow_iff req _).mp hsel).symm, rfl⟩
  · exact ⟨.flushB, ((fullRow_iff req _).mp hsel).symm, rfl⟩
  · exact ⟨.evtInc, ((fullRow_iff req _).mp hsel).symm, rfl⟩
  · exact ⟨.evtDec, ((fullRow_iff req _).mp hsel).symm, rfl⟩
  · exact ⟨_, rise_of_high ((riseRow_iff req).mp hsel), rfl⟩

/-! ### A word that decodes is an encoding -/

/-- A word whose operation code is `op` and whose reserved field below it is 0, cut at bit `k` (R62). -/
theorem request_of_fields {req : Request} {op : BitVec 4} (k n : Nat) (h : 36 = k + n) (hop : opField req = op)
    (hreserved : req.extractLsb' k n = 0#n) : (op ++ 0#n ++ req.extractLsb' 0 k).cast (by omega) = req := by
  conv_rhs => rw [request_split_low req k n h]
  rw [hreserved, ← hop, opField]

theorem encode_decodeG {req : Request} {i : Instr} (hop : opField req = 0x1#4) (h : decodeG req = .ok i) :
    encode i = req := by
  unfold decodeG at h
  split at h
  next hreserved =>
    cases h
    exact request_of_fields 4 32 rfl hop hreserved
  next => cases h

theorem encode_decodeN {req : Request} {i : Instr} (hop : opField req = 0x2#4) (h : decodeN req = .ok i) :
    encode i = req := by
  unfold decodeN at h
  split at h
  next hreserved =>
    cases h
    rw [← Machine.opField_append_low req, hop, hreserved, encode]
  next => cases h

theorem encode_decodeP {req : Request} {i : Instr} (hop : opField req = 0x3#4) (h : decodeP req = .ok i) :
    encode i = req := by
  unfold decodeP at h
  split at h
  next hreserved =>
    cases h
    rw [encode, ← hop, ← hreserved, opField, ← request_formatP req]
  next => cases h

theorem encode_decodeR {req : Request} {i : Instr} (hop : opField req = 0x4#4) (h : decodeR req = .ok i) :
    encode i = req := by
  unfold decodeR at h
  split at h
  next hreserved =>
    cases h
    rw [encode, ← hop, ← hreserved, opField, ← request_formatR req]
  next => cases h

theorem encode_decodeF {req : Request} {i : Instr} (hop : opField req = 0x5#4) (h : decodeF req = .ok i) :
    encode i = req := by
  unfold decodeF at h
  split at h
  next hreserved =>
    have hreq := request_of_fields 1 35 rfl hop hreserved
    rcases BitVec.eq_zero_or_eq_one (req.extractLsb' 0 1) with hm | hm <;> rw [hm] at h hreq <;> cases h <;> exact hreq
  next => cases h

theorem encode_decodeE {req : Request} {i : Instr} (hop : opField req = 0x6#4) (h : decodeE req = .ok i) :
    encode i = req := by
  unfold decodeE at h
  split at h
  next hreserved =>
    have hreq := request_of_fields 2 34 rfl hop hreserved
    rw [← BitVec.extractLsb'_append_extractLsb'_eq_extractLsb' (by decide : 1 = 0 + 1)] at hreq
    rcases BitVec.eq_zero_or_eq_one (req.extractLsb' 1 1) with hedge | hedge <;>
      rcases BitVec.eq_zero_or_eq_one (req.extractLsb' 0 1) with hsrc | hsrc <;>
      rw [hedge, hsrc] at h hreq <;> cases h <;> exact hreq
  next => cases h

theorem encode_decode {req : Request} {i : Instr} (h : decode req = .ok i) : encode i = req := by
  unfold decode at h
  split_ifs at h with h1 h2 h3 h4 h5 h6
  · exact encode_decodeG h1 h
  · exact encode_decodeN h2 h
  · exact encode_decodeP h3 h
  · exact encode_decodeR h4 h
  · exact encode_decodeF h5 h
  · exact encode_decodeE h6 h

/-! ### The opcode map -/

theorem selectsOwnRow (i : Instr) : Laws.SelectsOwnRow.Statement i := by
  cases i with
  | lookup d => exact Laws.SelectsOwnRow.lookup d
  | clear => exact Laws.SelectsOwnRow.clear
  | setpx idx r g b => exact Laws.SelectsOwnRow.setpx idx r g b
  | render pattern inten => exact Laws.SelectsOwnRow.render pattern inten
  | flushW => exact Laws.SelectsOwnRow.flushW
  | flushB => exact Laws.SelectsOwnRow.flushB
  | evtInc => exact Laws.SelectsOwnRow.evtInc
  | evtDec => exact Laws.SelectsOwnRow.evtDec
  | evtRise src => exact Laws.SelectsOwnRow.evtRise src

/-- Every operation has a row. -/
theorem exists_row_of_mnemonic (i : Instr) : ∃ row ∈ opcodeMap, row.mnemonic = i.mnemonic := by
  cases i <;> simp [opcodeMap, Instr.mnemonic]

/-- A row is known by its mnemonic. -/
theorem row_eq_of_mnemonic : ∀ a ∈ opcodeMap, ∀ b ∈ opcodeMap, a.mnemonic = b.mnemonic → a = b := by
  decide

/-- A word that decodes is selected by its operation's row (R64). -/
theorem selects_of_decode {req : Request} {i : Instr} (h : decode req = .ok i) :
    ∃ row ∈ opcodeMap, row.mnemonic = i.mnemonic ∧ row.selects req = true := by
  obtain ⟨row, hrow, hname⟩ := exists_row_of_mnemonic i
  have hown := selectsOwnRow i row hrow hname
  rw [encode_decode h] at hown
  exact ⟨row, hrow, hname, hown⟩

/-- A word is reserved exactly when no row selects it (R65). -/
theorem decode_error_iff (req : Request) :
    (∃ e, decode req = .error e) ↔ ∀ row ∈ opcodeMap, row.selects req = false := by
  constructor
  · rintro ⟨e, he⟩ row hrow
    by_contra hsel
    obtain ⟨i, rfl, -⟩ := encode_of_selects hrow (by simpa using hsel)
    rw [decode_encode] at he
    cases he
  · intro hnone
    cases hd : decode req with
    | error e => exact ⟨e, rfl⟩
    | ok i =>
      obtain ⟨row, hrow, -, hsel⟩ := selects_of_decode hd
      rw [hnone row hrow] at hsel
      cases hsel

/-- Settles O1, operation by operation: the fields of the concatenation, read back. -/
theorem encodedRequestDecodesBack : Obligations.EncodedRequestDecodesBack := decode_encode

/-- Settles O2, format by format: the operation code, the reserved zeros and the fields are the whole word. -/
theorem decodedWordEncodesBack : Obligations.DecodedWordEncodesBack := fun _ _ => encode_decode

/-- Settles O3: the words the rows select are the encodings, and these are the words that decode. -/
theorem decoderAgreesWithOpcodeMap : Obligations.DecoderAgreesWithOpcodeMap :=
  fun req => ⟨fun _ => selects_of_decode, decode_error_iff req⟩

/-- Settles O4: a word that two rows select is the encoding of an operation of each, hence of one operation, and its
mnemonic names one row. -/
theorem opcodeRowsAreDisjoint : Obligations.OpcodeRowsAreDisjoint := by
  intro req a ha b hb hsela hselb
  obtain ⟨i, hi, hnamea⟩ := encode_of_selects ha hsela
  obtain ⟨j, hj, hnameb⟩ := encode_of_selects hb hselb
  have hij : i = j := encode_injective (hi.trans hj.symm)
  exact row_eq_of_mnemonic a ha b hb (by rw [← hnamea, ← hnameb, hij])

/-- Settles O5: the decoder evaluated at the nine words. -/
theorem specWordsDecode : Obligations.SpecWordsDecode := by
  unfold Obligations.SpecWordsDecode
  decide

end Sys2Proof
end

section
/-! The family of 10_state.md, continued: the steps of the block (R26) and its ports (R60, R67, R68). Each step that
`blockStep` can take has its equation: `step_takes`, `step_emits`, `step_stalls` above, the other three here. -/

namespace Sys2Proof.Machine

/-! ### The steps one by one -/

/-- IDLE with no request waits (R26). -/
theorem step_waits {s : State} (hrst : s.ports.rst = false) (hseq : s.seq = .idle) (hreq : s.ports.req = none) :
    step s = .next s.advance := by
  simp [step, blockStep, hrst, hseq, hreq, onNext]

/-- The fault state is stopped (R26, R123). -/
theorem step_stopped {s : State} {code : FaultCode} (hrst : s.ports.rst = false) (hseq : s.seq = .fault code) :
    step s = .next s.advance := by
  simp [step, blockStep, hrst, hseq, onNext]

/-- Reset is taken in every state (R26, R150). -/
theorem step_resets {s : State} (hrst : s.ports.rst = true) : step s = .next (resetRegisters s).advance := by
  simp [step, blockStep, hrst, onNext]

/-- Settles O6: the equation of the `take` step, and what the environment's move leaves alone, field by field. -/
theorem stepRunsDecodedRequest : Obligations.StepRunsDecodedRequest := by
  refine ⟨fun s req i => step_takes, fun s => ?_⟩
  obtain ⟨hseq, hregs, hout, hrsp⟩ := sameBlock_advance s
  exact ⟨hregs, hseq, hout, hrsp, State.advance_cfg s, upcoming_advance s⟩

theorem decode_tableRequest {nbits w : Nat} {i : Instr} (h : decodeTableWord nbits w = some i) :
    decode (tableRequest nbits w) = .ok i := by
  unfold decodeTableWord at h
  split at h
  next hd => cases h; exact hd
  next => cases h

/-- The placed word is taken by the coming step (assumption 8). -/
theorem withFetchWord_takes (s : State) (nbits w : Nat) :
    (s.withFetchWord nbits w).Takes (tableRequest nbits w) := ⟨rfl, rfl, rfl⟩

/-- Settles O7: the placed word is presented in IDLE without reset, so the step takes it. -/
theorem placedWordIsTakenNext : Obligations.PlacedWordIsTakenNext := by
  intro s nbits w i h
  exact ⟨step_takes (withFetchWord_takes s nbits w) (decode_tableRequest h), ⟨rfl, rfl, rfl⟩, rfl, rfl, rfl⟩

/-- Settles O8, by induction on the number of steps. -/
theorem everyRunGoesOn : Obligations.EveryRunGoesOn := by
  intro n
  induction n with
  | zero => exact fun s => ⟨s, run_zero s⟩
  | succ n ih =>
    intro s
    obtain ⟨u, hstep, -⟩ := step_outcome s
    obtain ⟨t, hrun⟩ := ih u.advance
    exact ⟨t, (run_succ hstep n).trans hrun⟩

/-- Settles O11: waiting, stalled and stopped, each by its equation. -/
theorem nothingEnabledNothingChanges : Obligations.NothingEnabledNothingChanges := by
  rintro s hrst (⟨hidle, hreq⟩ | ⟨⟨fmode, fi, fp, hflush⟩, hready⟩ | ⟨code, hfault⟩)
  · exact step_waits hrst hidle hreq
  · exact step_stalls hflush hrst hready
  · exact step_stopped hrst hfault

/-! ### A busy block does not read the request port (R60) -/

theorem reqReady_iff (s : State) : s.reqReady = true ↔ s.seq = .idle := by
  unfold State.reqReady
  cases s.seq <;> simp

/-- The state with other inputs to come. -/
def State.withInputs (s : State) (ps : List PortInputs) : State := { s with inputs := ps }

/-- With a listed input record the environment's move drops it. -/
theorem advance_cons {s : State} {p : PortInputs} {rest : List PortInputs} (h : s.inputs = p :: rest) :
    s.advance = s.withInputs rest := by
  simp only [State.advance, h, State.withInputs]

theorem ports_cons {s : State} {p : PortInputs} {rest : List PortInputs} (h : s.inputs = p :: rest) :
    s.ports = p := by
  simp only [State.ports, h]

/-- The `emit` step does not read the coming inputs. -/
theorem emitStep_withInputs (fmode : WireMode) (fi : Fin 25) (fp : Fin 3) (s : State) (ps : List PortInputs) :
    emitStep fmode fi fp (s.withInputs ps) = (emitStep fmode fi fp s).withInputs ps := by
  unfold emitStep advanceFlush
  split
  · split <;> rfl
  · rfl

/-- Settles O10: reset, stall and stop read no input but `rst` and `out_ready`, and neither does the `emit` step. -/
theorem busyBlockIgnoresRequests : Obligations.BusyBlockIgnoresRequests := by
  intro s p rest req hin hbusy
  let s' := s.withInputs ({ p with req := req } :: rest)
  have hp : s.ports = p := ports_cons hin
  change step s' = step s
  cases hrst : p.rst with
  | true =>
    rw [step_resets (s := s') hrst, step_resets (s := s) (hp ▸ hrst), advance_cons (s := resetRegisters s) hin]
    rfl
  | false =>
    cases hseq : s.seq with
    | idle => exact absurd ((reqReady_iff s).mpr hseq) (by simp [hbusy])
    | fault code =>
      rw [step_stopped (s := s') hrst hseq, step_stopped (s := s) (hp ▸ hrst) hseq, advance_cons hin]
      rfl
    | flush fmode fi fp =>
      cases hready : p.outReady with
      | true =>
        rw [step_emits (s := s') ⟨hrst, hseq, hready⟩, step_emits (s := s) ⟨hp ▸ hrst, hseq, hp ▸ hready⟩,
          emitStep_withInputs, advance_cons ((emitStep_inputs _ _ _ s).trans hin)]
        rfl
      | false =>
        rw [step_stalls (s := s') hseq hrst hready, step_stalls (s := s) hseq (hp ▸ hrst) (hp ▸ hready),
          advance_cons hin]
        rfl

/-! ### The output ports (R67, R68) -/

theorem outValid_iff (s : State) : s.outValid = true ↔ s.Flushing := by
  unfold State.outValid State.offered State.Flushing
  cases s.seq <;> simp

theorem faultCode_of_fault {s : State} {code : FaultCode} (h : s.seq = .fault code) :
    s.faultCode = some code.toBits := by
  simp only [State.faultCode, h]

theorem faultLine_iff (s : State) : s.faultLine = true ↔ ∃ code, s.seq = .fault code := by
  unfold State.faultLine State.faultCode
  cases s.seq <;> simp

/-- In a flush the offered unit is the one `(FMODE, FI, FP)` selects (R68). -/
theorem offered_of_flush {s : State} {fmode : WireMode} {fi : Fin 25} {fp : Fin 3} (h : s.seq = .flush fmode fi fp) :
    s.offered = some (unitOf fmode s.pb[fi] fp) := by
  simp only [State.offered, h, pbufRead]

/-- `out_data` of a byte: the byte below, zeros above (R68). -/
theorem byte_data_fields (v : Channel) :
    (OutUnit.byte v).data.extractLsb' 0 8 = v ∧ (OutUnit.byte v).data.extractLsb' 8 24 = 0#24 := by
  have hdata : (OutUnit.byte v).data = 0#24 ++ v := BitVec.setWidth_eq_append (by decide : 8 ≤ 32)
  rw [hdata]
  exact ⟨BitVec.extractLsb'_append_eq_right, BitVec.extractLsb'_append_eq_left⟩

/-- The response signals of a step that adds a response (R67). -/
theorem response_ports {s t : State} {status : Status} {value : Pattern} (h : t.rsp = s.rsp ++ [⟨status, value⟩]) :
    rspValid s t = true ∧ rspValue s t = some value ∧ rspStatus s t = some status.toBits := by
  simp [rspValid, rspValue, rspStatus, stepResponse_append h]

/-- Settles O12, port by port. -/
theorem portOutputsFollowSequencer : Obligations.PortOutputsFollowSequencer := by
  refine ⟨fun s => ⟨reqReady_iff s, outValid_iff s, faultLine_iff s, faultCode_of_fault, faultCode_of_fault,
    faultCode_of_fault, fun fi fp h => ?_, fun fi => offered_of_flush, fun fi => offered_of_flush,
    fun fi => offered_of_flush⟩, fun w => ⟨rfl, rfl⟩, fun v => ⟨rfl, byte_data_fields v⟩,
    fun s t status value h => ?_, fun s t h => ?_⟩
  · rw [offered_of_flush h, unitOf, packWord_eq_append]
  · obtain ⟨hvalid, hvalue, hstatus⟩ := response_ports h
    exact ⟨hvalid, hvalue, by rintro rfl; exact hstatus, by rintro rfl; exact hstatus, by rintro rfl; exact hstatus⟩
  · rw [rspValid, stepResponse_same h, Option.isSome_none]

/-! ### Reset (R32, R150) -/

/-- The ports of a block in IDLE (R60, R67, R68). -/
theorem idle_outputs {s : State} (h : s.seq = .idle) :
    s.reqReady = true ∧ s.outValid = false ∧ s.faultLine = false := by
  obtain ⟨hfault, hready⟩ := idle_ports h
  exact ⟨hready, by simp [State.outValid, State.offered, h], hfault⟩

/-- Settles O13: the reset buffer is the dark one and the sequencer idle. -/
theorem powerOnResetState : Obligations.PowerOnResetState :=
  ⟨clearBuffer_getElem, rfl, rfl, rfl, rfl, rfl, idle_outputs rfl⟩

/-- Settles O14: the step is `resetRegisters`, whatever the sequencer. -/
theorem resetFromAnyState : Obligations.ResetFromAnyState := by
  intro s hrst
  have hidle : (resetRegisters s).advance.seq = .idle := State.advance_seq _
  refine ⟨_, step_resets hrst, fun i => ?_, State.advance_digit _, State.advance_lastT _, hidle, State.advance_out _,
    State.advance_rsp _, State.advance_cfg _, idle_outputs hidle⟩
  rw [State.advance_pb, resetRegisters_pb]
  exact clearBuffer_getElem i

end Sys2Proof.Machine
end

section
/-! The family of 60_exceptions.md, continued: faults (R121 to R123). An operation faults exactly when it is ill formed,
a reserved word always, and nothing else does; so what a run may reach depends on the words presented to it, and
`run_keeps_while` is the induction over a run whose coming inputs are known to satisfy a condition. -/

namespace Sys2Proof.Machine

/-- What every step keeps whose input signals satisfy `C`, a run keeps whose coming inputs all satisfy it. -/
theorem run_keeps_while {C : PortInputs → Prop} {P : State → Prop}
    (keeps : ∀ {s t : State}, step s = .next t → C s.ports → P s → P t) (n : Nat) :
    ∀ {s t : State}, run n s = .next t → (∀ k, k < n → C (s.upcoming k)) → P s → P t := by
  induction n with
  | zero => intro s t h _ hs; cases h; exact hs
  | succ n ih =>
    intro s t h hC hs
    obtain ⟨u, hu, hr⟩ := run_step h
    have hC' : ∀ k, k < n → C (u.upcoming k) := fun k hk => by rw [upcoming_step hu]; exact hC (k + 1) (by omega)
    have hfirst : C s.ports := by rw [ports_eq_upcoming_zero]; exact hC 0 (by omega)
    exact ih hr hC' (keeps hu hfirst hs)

/-! ### Operations -/

/-- Taking a fault writes nothing but the sequencer (R122). -/
theorem raiseFault_frame (code : FaultCode) (s : State) :
    SameRegisters s (raiseFault code s) ∧ SameSurroundings s (raiseFault code s) := by
  simp [SameRegisters, SameSurroundings]

/-- Settles O21: the index is out of the ROM's range, so the operation is the fault. -/
theorem lookupOutOfRangeFaults : Obligations.LookupOutOfRangeFaults := by
  intro d s h
  have hexec : exec (.lookup d) s = .next (raiseFault .fDigit s) := by
    simp only [exec, execLookup, digitOperand_none h]
  obtain ⟨hregs, hsurr⟩ := raiseFault_frame .fDigit s
  exact ⟨_, hexec, rfl, rfl, hregs, hsurr, rfl, rfl⟩

/-- Settles O24: the index is out of the buffer's range, so the operation is the fault. -/
theorem setpxOutOfRangeFaults : Obligations.SetpxOutOfRangeFaults := by
  intro idx r g b s h
  have hexec : exec (.setpx idx r g b) s = .next (raiseFault .fIndex s) := by
    simp only [exec, execSetpx, indexOperand_none h]
  obtain ⟨hregs, hsurr⟩ := raiseFault_frame .fIndex s
  exact ⟨_, hexec, rfl, rfl, hregs, hsurr, rfl, rfl⟩

/-- An operation faults exactly when an operand is out of range (R121). -/
theorem execOutcome_fault_iff {i : Instr} {s t : State} (h : ExecOutcome i s t) :
    (∃ code, t.seq = .fault code) ↔ i.wf = false := by
  cases h with
  | faults code hwf => exact ⟨fun _ => hwf, fun _ => ⟨code, rfl⟩⟩
  | responds _ _ hwf | writes _ hwf | flushes _ hwf | accepts _ hwf => simp [hwf]

/-- An ill-formed operation writes nothing but the sequencer: the fault is precise (R122). -/
theorem execOutcome_illFormed_frame {i : Instr} {s t : State} (h : ExecOutcome i s t) (hwf : i.wf = false) :
    SameRegisters s t ∧ SameSurroundings s t ∧ t.out = s.out ∧ t.rsp = s.rsp := by
  cases h with
  | faults code =>
    obtain ⟨hregs, hsurr⟩ := raiseFault_frame code s
    exact ⟨hregs, hsurr, rfl, rfl⟩
  | responds _ _ hwf' | writes _ hwf' | flushes _ hwf' | accepts _ hwf' => simp [hwf] at hwf'

/-- Settles O17, by inversion of `exec`. -/
theorem faultExactlyOnIllFormedOperand : Obligations.FaultExactlyOnIllFormedOperand := by
  intro i s _
  obtain ⟨t, hexec, ho⟩ := exec_outcome i s
  exact ⟨t, hexec, execOutcome_fault_iff ho, execOutcome_illFormed_frame ho⟩

/-- Settles O15: a word no row selects does not decode, and the step that takes it is the fault. -/
theorem reservedRequestRaisesFReq : Obligations.ReservedRequestRaisesFReq := by
  intro s req htakes hnone
  obtain ⟨e, he⟩ := (decode_error_iff req).mpr hnone
  refine ⟨_, step_takes_reserved htakes he, State.advance_seq _, ?_, State.advance_out _, State.advance_rsp _,
    State.advance_cfg _⟩
  simp [SameRegisters]

/-! ### The fault state lasts -/

/-- Settles O16: every step without reset keeps the block's whole state. -/
theorem faultStateIsSticky : Obligations.FaultStateIsSticky := by
  intro n s code hfault hreset
  obtain ⟨t, hrun⟩ := everyRunGoesOn n s
  have keeps : ∀ {u v : State}, step u = .next v → u.ports.rst = false → SameBlock s u → SameBlock s v := by
    intro u v hstep hrst hsame
    have hseq : u.seq = .fault code := hsame.1.trans hfault
    cases (step_stopped hrst hseq).symm.trans hstep
    exact sameBlock_trans hsame (sameBlock_advance u)
  obtain ⟨hseq, hregs, hout, hrsp⟩ :=
    run_keeps_while (C := fun p => p.rst = false) keeps n hrun hreset (sameBlock_refl s)
  have hfaultT : t.seq = .fault code := hseq.trans hfault
  refine ⟨t, hrun, hfaultT, hregs, hout, hrsp, ?_, ?_, (faultLine_iff t).mpr ⟨code, hfaultT⟩,
    faultCode_of_fault hfaultT⟩
  · simp [State.reqReady, hfaultT]
  · simp [State.outValid, State.offered, hfaultT]

/-! ### No fault while every presented word is well formed -/

/-- The presented word, if there is one, is a well-formed operation (R158 (d)). -/
def PresentsWellFormed (p : PortInputs) : Prop :=
  ∀ req, p.req = some req → ∃ i, decode req = .ok i ∧ i.wf = true

theorem noFault_iff (s : State) : s.NoFault ↔ ¬ ∃ code, s.seq = .fault code := by
  simp [State.NoFault]

theorem emitStep_noFault (fmode : WireMode) (fi : Fin 25) (fp : Fin 3) (s : State) :
    (emitStep fmode fi fp s).NoFault := by
  have ho := emitStep_outcome fmode fi fp s
  generalize emitStep fmode fi fp s = t at ho
  intro code
  cases ho <;> simp

/-- Only an ill-formed or reserved word brings the block from outside the fault state into it (R121). -/
theorem stepOutcome_noFault {s t : State} (h : StepOutcome s t) (hwf : PresentsWellFormed s.ports) (hs : s.NoFault) :
    t.NoFault := by
  cases h with
  | resets => intro code; simp
  | waits | stalls | stopped => exact hs
  | emits fmode fi fp => exact emitStep_noFault fmode fi fp s
  | takes req i _ htakes hdecode ho =>
    obtain ⟨-, -, hreq⟩ := htakes
    obtain ⟨j, hj, hjwf⟩ := hwf req hreq
    cases hdecode.symm.trans hj
    rw [noFault_iff, execOutcome_fault_iff ho, hjwf]
    decide
  | reserved req e htakes hdecode =>
    obtain ⟨-, -, hreq⟩ := htakes
    obtain ⟨j, hj, -⟩ := hwf req hreq
    cases hdecode.symm.trans hj

theorem step_noFault {s t : State} (h : step s = .next t) (hwf : PresentsWellFormed s.ports) (hs : s.NoFault) :
    t.NoFault := by
  obtain ⟨u, rfl, ho⟩ := step_cases h
  intro code
  rw [State.advance_seq]
  exact stepOutcome_noFault ho hwf hs code

/-- Settles O18, by induction over the run. -/
theorem wellFormedRequestsNeverFault : Obligations.WellFormedRequestsNeverFault :=
  fun n _ _ hs hwf hrun => run_keeps_while (C := PresentsWellFormed) step_noFault n hrun hwf hs

/-- The four words of the product are the encodings of the events (R64, R70). -/
theorem event_of_word {req : Request} (h : req = 0x6000000000#40 ∨ req = 0x6000000001#40 ∨ req = 0x6000000002#40 ∨
    req = 0x6000000003#40) : req = encode .evtInc ∨ req = encode .evtDec ∨ ∃ src, req = encode (.evtRise src) := by
  rcases h with rfl | rfl | rfl | rfl
  · exact .inl (by decide)
  · exact .inr (.inl (by decide))
  · exact .inr (.inr ⟨.increment, by decide⟩)
  · exact .inr (.inr ⟨.decrement, by decide⟩)

theorem onlyEvents_wellFormed {s : State} {n : Nat} (h : OnlyEvents s n) : WellFormedRequests s n := by
  intro k hk req hreq
  rcases event_of_word (h k hk req hreq) with rfl | rfl | ⟨src, rfl⟩ <;> exact ⟨_, decode_encode _, rfl⟩

/-- Settles O19: the product's words are well formed, so no fault is reached from IDLE. -/
theorem productRequestsNeverFault : Obligations.ProductRequestsNeverFault := by
  intro n s t hidle hevents hrun
  have hs : s.NoFault := fun code => by simp [hidle]
  exact wellFormedRequestsNeverFault n s t hs (onlyEvents_wellFormed hevents) hrun

end Sys2Proof.Machine
end

section
/-! The families of 41_pixel_buffer.md and 42_renderer.md: SETPX (R86), RENDER (R90, R91), and the render as 25 SETPX
operations (R87). -/

namespace Sys2Proof.Machine

/-! ### SETPX -/

/-- SETPX of a legal index writes its pixel and responds (R86). -/
theorem exec_setpx_legal {idx : BitVec 5} (h : idx.toNat < 25) (r g b : Channel) (s : State) :
    exec (.setpx idx r g b) s = .next (finish .done 0 (pbufWrite ⟨idx.toNat, h⟩ ⟨r, g, b⟩ s)) := by
  simp only [exec, execSetpx, indexOperand_some h]

/-- A pixel write reads back at its own index and leaves the other pixels (R12, R45). -/
theorem pbufWrite_getElem (i j : Fin 25) (px : Pixel) (s : State) :
    (pbufWrite i px s).pb[j] = if j = i then px else s.pb[j] := by
  simp only [pbufWrite_pb, Fin.getElem_fin, Vector.getElem_set, Fin.ext_iff, eq_comm]

/-- Settles O23: the write of one pixel, read back, and the response. -/
theorem setpxWritesExactlyOnePixel : Obligations.SetpxWritesExactlyOnePixel := by
  intro idx r g b s h
  refine ⟨_, exec_setpx_legal h r g b s, ?_, fun j hj => ?_, finish_rsp _ _ _, finish_seq _ _ _, rfl, rfl, rfl,
    rfl, rfl, rfl⟩
  · exact (pbufWrite_getElem ⟨idx.toNat, h⟩ ⟨idx.toNat, h⟩ ⟨r, g, b⟩ s).trans (if_pos rfl)
  · exact (pbufWrite_getElem ⟨idx.toNat, h⟩ j ⟨r, g, b⟩ s).trans (if_neg (Fin.ne_of_val_ne hj))

/-! ### RENDER -/

/-- RENDER writes the rendered buffer and responds (R90). -/
theorem exec_render (pattern : Pattern) (inten : Channel) (s : State) :
    exec (.render pattern inten) s = .next (finish .done 0 (pbufWriteAll (renderBuffer pattern inten) s)) := rfl

/-- Settles O25: the rendered buffer is what R90 writes, bit by bit (`renderedAs_renderBuffer`). -/
theorem renderWritesEveryPixel : Obligations.RenderWritesEveryPixel := by
  intro pattern inten s
  obtain ⟨hdigit, hlastT, hout, hsurr⟩ := finish_pbufWriteAll_frame (renderBuffer pattern inten) .done 0 s
  exact ⟨_, exec_render pattern inten s, renderedAs_renderBuffer pattern inten, finish_rsp _ _ _, finish_seq _ _ _,
    hdigit, hlastT, hout, hsurr⟩

/-- A render has two colours (R91). -/
theorem renderPixel_cases (pattern : Pattern) (inten : Channel) (i : Fin 25) :
    renderPixel pattern inten i = ⟨inten, inten, inten⟩ ∨ renderPixel pattern inten i = ⟨inten, 0, 0⟩ := by
  unfold renderPixel
  split
  · exact .inl rfl
  · exact .inr rfl

/-- Settles O26: the buffer is `renderBuffer` of the operands, whatever the state. -/
theorem renderIsDeterministicInTwoColours : Obligations.RenderIsDeterministicInTwoColours := by
  intro pattern inten s₁ s₂ t₁ t₂ h₁ h₂
  cases (exec_render pattern inten s₁).symm.trans h₁
  cases (exec_render pattern inten s₂).symm.trans h₂
  refine ⟨rfl, fun i => ?_⟩
  rw [finish_pb, pbufWriteAll_pb, renderBuffer_getElem]
  exact renderPixel_cases pattern inten i

/-! ### RENDER as 25 SETPX -/

theorem execAll_cons {i : Instr} {s t : State} (h : exec i s = .next t) (is : List Instr) :
    execAll (i :: is) s = execAll is t := by
  simp only [execAll, h]

theorem execAll_append (is js : List Instr) : ∀ {s t : State}, execAll is s = .next t →
    execAll (is ++ js) s = execAll js t := by
  induction is with
  | nil => intro s t h; cases h; rfl
  | cons i is ih =>
    intro s t h
    obtain ⟨u, hu, -⟩ := exec_outcome i s
    rw [execAll_cons hu] at h
    rw [List.cons_append, execAll_cons hu]
    exact ih h

/-- The SETPX operation of one pixel of a render (R87). -/
def renderSetpx (pattern : Pattern) (inten : Channel) (i : Nat) : Instr :=
  .setpx (BitVec.ofNat 5 i) inten (if pattern.getLsbD i then inten else 0) (if pattern.getLsbD i then inten else 0)

/-- The first `n` pixels are rendered, the others as in `s`, and nothing else has changed but the responses. -/
structure RenderedUpTo (pattern : Pattern) (inten : Channel) (n : Nat) (s u : State) : Prop where
  pb : ∀ j : Fin 25, u.pb[j] = if j.val < n then renderPixel pattern inten j else s.pb[j]
  digit : u.digit = s.digit
  lastT : u.lastT = s.lastT
  out : u.out = s.out
  seq : 0 < n → u.seq = .idle

/-- The operation of one pixel writes that pixel as RENDER does (R87, R90). -/
theorem exec_renderSetpx (pattern : Pattern) (inten : Channel) (i : Fin 25) (s : State) :
    exec (renderSetpx pattern inten i.val) s =
      .next (finish .done 0 (pbufWrite i (renderPixel pattern inten i) s)) := by
  have hval : (BitVec.ofNat 5 i.val).toNat = i.val := by
    rw [BitVec.toNat_ofNat, Nat.mod_eq_of_lt (by omega)]
  have hidx : (⟨(BitVec.ofNat 5 i.val).toNat, by omega⟩ : Fin 25) = i := Fin.ext hval
  rw [renderSetpx, exec_setpx_legal (by omega), hidx, renderPixel]
  split <;> rfl

/-- One more pixel. -/
theorem renderedUpTo_succ {pattern : Pattern} {inten : Channel} {i : Fin 25} {s u : State}
    (h : RenderedUpTo pattern inten i.val s u) :
    RenderedUpTo pattern inten (i.val + 1) s (finish .done 0 (pbufWrite i (renderPixel pattern inten i) u)) where
  pb j := by
    rw [finish_pb, pbufWrite_getElem, h.pb]
    by_cases hji : j = i
    · simp [hji]
    · have hlt : j.val < i.val + 1 ↔ j.val < i.val := by have := Fin.val_ne_of_ne hji; omega
      simp [hji, hlt]
  digit := h.digit
  lastT := h.lastT
  out := h.out
  seq _ := rfl

/-- The operations of the first `n` pixels, one after the other. -/
theorem execAll_renderSetpx (pattern : Pattern) (inten : Channel) (s : State) : ∀ n, n ≤ 25 →
    ∃ u, execAll ((List.range n).map (renderSetpx pattern inten)) s = .next u ∧ RenderedUpTo pattern inten n s u := by
  intro n
  induction n with
  | zero => exact fun _ => ⟨s, rfl, by simp, rfl, rfl, rfl, by simp⟩
  | succ n ih =>
    intro hn
    obtain ⟨u, hexec, hu⟩ := ih (by omega)
    refine ⟨_, ?_, renderedUpTo_succ (i := ⟨n, by omega⟩) hu⟩
    rw [List.range_succ, List.map_append, execAll_append _ _ hexec]
    exact execAll_cons (exec_renderSetpx pattern inten ⟨n, by omega⟩ u) []

/-- Settles O27: after the operations of all 25 pixels every pixel is the rendered one. -/
theorem renderEqualsTwentyFiveSetpx : Obligations.RenderEqualsTwentyFiveSetpx := by
  intro pattern inten s
  obtain ⟨u, hexec, hu⟩ := execAll_renderSetpx pattern inten s 25 (by omega)
  have hpb : u.pb = renderBuffer pattern inten := by
    ext1 i hi
    exact (hu.pb ⟨i, hi⟩).trans ((if_pos hi).trans (renderBuffer_getElem pattern inten ⟨i, hi⟩).symm)
  exact ⟨_, u, exec_render pattern inten s, hexec, hpb, hu.digit, hu.lastT, hu.seq (by decide), hu.out⟩

end Sys2Proof.Machine
end

section
/-! The family of 43_serializer.md, continued: the frame by position (R100), the `emit` step as one step forward in it
(R98, R99), and a whole flush, its output and its end. What is left of a frame at a position, `(frame …).drop …`, is
what the flush still hands over; the number of its units is what the liveness proofs count down. -/

namespace Sys2Proof.Machine

/-! ### The frame, position by position -/

/-- Settles O31: the word is the three bytes and a zero byte side by side. -/
theorem bothModesCarryTheSameBits : Obligations.BothModesCarryTheSameBits := by
  intro px
  refine ⟨_, _, _, _, rfl, rfl, ?_⟩
  rw [packWord_eq_append]
  exact BitVec.extractLsb'_append_eq_left

/-- The bytes of a list of pixels, three to a pixel (R97, R100). -/
theorem pixelBytes_getElem? (fp : Fin 3) : ∀ (pxs : List Pixel) (i : Nat),
    (pxs.flatMap (pixelUnits .byteTriplet))[3 * i + fp.val]? = pxs[i]?.map fun px => .byte (phaseByte px fp) := by
  intro pxs
  induction pxs with
  | nil => simp
  | cons px pxs ih =>
    intro i
    cases i with
    | zero => fin_cases fp <;> rfl
    | succ i =>
      rw [show 3 * (i + 1) + fp.val = 3 * i + fp.val + 3 by omega]
      exact ih i

/-- The unit at each position of the frame (R98, R100). -/
theorem frame_getElem?_position (fmode : WireMode) (pb : PixelBuffer) (fi : Fin 25) (fp : Fin 3) :
    (frame fmode pb)[framePosition fmode fi fp]? = some (unitOf fmode pb[fi] fp) := by
  have hpixel : pb.toList[fi.val]? = some pb[fi] := by simp
  cases fmode with
  | packedWord => rw [frame_packedWord, List.getElem?_map, framePosition, hpixel]; rfl
  | byteTriplet => rw [frame, framePosition, pixelBytes_getElem?, hpixel]; rfl

theorem frame_length (fmode : WireMode) (pb : PixelBuffer) : (frame fmode pb).length = frameLength fmode := by
  cases fmode with
  | packedWord => simp [frame_packedWord, frameLength]
  | byteTriplet => simp [frame, pixelUnits, List.length_flatMap, frameLength]

theorem framePosition_lt (fmode : WireMode) (fi : Fin 25) (fp : Fin 3) :
    framePosition fmode fi fp < frameLength fmode := by
  cases fmode <;> simp only [framePosition, frameLength] <;> omega

theorem framePosition_start (fmode : WireMode) : framePosition fmode 0 0 = 0 := by
  cases fmode <;> rfl

/-- The part handed over, one unit later. -/
theorem frame_take_succ (fmode : WireMode) (pb : PixelBuffer) (fi : Fin 25) (fp : Fin 3) :
    (frame fmode pb).take (framePosition fmode fi fp + 1) =
      (frame fmode pb).take (framePosition fmode fi fp) ++ [unitOf fmode pb[fi] fp] := by
  rw [List.take_add_one, frame_getElem?_position, Option.toList_some]

/-- The part still to come begins with the unit at the position. -/
theorem frame_drop_position (fmode : WireMode) (pb : PixelBuffer) (fi : Fin 25) (fp : Fin 3) :
    (frame fmode pb).drop (framePosition fmode fi fp) =
      unitOf fmode pb[fi] fp :: (frame fmode pb).drop (framePosition fmode fi fp + 1) := by
  obtain ⟨hlt, hunit⟩ := List.getElem?_eq_some_iff.mp (frame_getElem?_position fmode pb fi fp)
  rw [List.drop_eq_getElem_cons hlt, hunit]

theorem frame_drop_length (fmode : WireMode) (pb : PixelBuffer) : (frame fmode pb).drop (frameLength fmode) = [] := by
  rw [← frame_length fmode pb, List.drop_length]

/-- Settles O34: the units at the four kinds of position. -/
theorem frameContents : Obligations.FrameContents := by
  intro pb
  refine ⟨frame_length .packedWord pb, frame_length .byteTriplet pb, fun i => ⟨?_, ?_, ?_, ?_⟩⟩
  · rw [← packWord_eq_append]
    exact frame_getElem?_position .packedWord pb i 0
  · exact frame_getElem?_position .byteTriplet pb i 0
  · exact frame_getElem?_position .byteTriplet pb i 1
  · exact frame_getElem?_position .byteTriplet pb i 2

/-! ### The start of a flush -/

/-- The block with a flush just started (R95). -/
theorem startFlush_frame (fmode : WireMode) (s : State) :
    SameRegisters s (startFlush fmode s) ∧ SameSurroundings s (startFlush fmode s) ∧
    (startFlush fmode s).reqReady = false ∧ (startFlush fmode s).outValid = true :=
  ⟨⟨rfl, rfl, rfl⟩, ⟨rfl, rfl, rfl⟩, rfl, rfl⟩

/-- Settles O28: both operations are `startFlush`, each in its mode. -/
theorem flushRequestsStartAFlush : Obligations.FlushRequestsStartAFlush := by
  intro s
  obtain ⟨hregsW, hsurrW, hreadyW, hvalidW⟩ := startFlush_frame .packedWord s
  obtain ⟨hregsB, hsurrB, hreadyB, hvalidB⟩ := startFlush_frame .byteTriplet s
  exact ⟨⟨_, rfl, rfl, hregsW, hsurrW, rfl, rfl, hreadyW, hvalidW⟩,
    ⟨_, rfl, rfl, hregsB, hsurrB, rfl, rfl, hreadyB, hvalidB⟩⟩

/-! ### The `emit` step -/

/-- Green and red are not a pixel's last units (R98). -/
theorem not_lastUnit {fmode : WireMode} {fp : Fin 3} (hmode : fmode = .byteTriplet) (h : fp.val < 2) :
    ¬ (fmode = .packedWord ∨ fp.val = 2) := by
  rintro (hW | hblue)
  · cases hmode.symm.trans hW
  · omega

/-- Settles O32: the three cases of the advance, which the phase and the pixel tell apart. -/
theorem emitStepAdvances : Obligations.EmitStepAdvances := by
  intro s fmode fi fp hemits
  obtain ⟨hregs, hcfg, hout⟩ := emitStep_advance_frame fmode fi fp s
  refine ⟨_, _, step_emits hemits, offered_of_flush hemits.2.1, hout, hregs, hcfg, ?_⟩
  rw [State.advance_seq, State.advance_rsp]
  have ho := emitStep_outcome fmode fi fp s
  generalize emitStep fmode fi fp s = t at ho
  cases ho with
  | phase h hmode =>
    have hnot := not_lastUnit hmode h
    exact ⟨fun _ _ => ⟨rfl, rfl⟩, fun hlast => absurd hlast hnot, fun hlast => absurd hlast hnot⟩
  | pixel h hlast =>
    exact ⟨fun hmode h2 => absurd hlast (not_lastUnit hmode h2), fun _ _ => ⟨rfl, rfl⟩, fun _ h24 => by omega⟩
  | completes h24 hlast =>
    exact ⟨fun hmode h2 => absurd hlast (not_lastUnit hmode h2), fun _ h => by omega, fun _ _ => ⟨rfl, rfl⟩⟩

/-- Where the sequencer is in the frame after a unit at `(fi, fp)`: one position on with no response, or, after the
frame's last unit, in IDLE with the one response `DONE` (R98, R99). -/
def OnePositionOn (fmode : WireMode) (fi : Fin 25) (fp : Fin 3) (s t : State) : Prop :=
  (∃ fi' fp', t.seq = .flush fmode fi' fp' ∧ (fmode = .packedWord → fp' = 0) ∧
    framePosition fmode fi' fp' = framePosition fmode fi fp + 1 ∧ t.rsp = s.rsp) ∨
  (t.seq = .idle ∧ framePosition fmode fi fp + 1 = frameLength fmode ∧ t.rsp = s.rsp ++ [⟨.done, 0⟩])

theorem framePosition_nextPixel {fmode : WireMode} {fi fi' : Fin 25} {fp : Fin 3} (h : fi'.val = fi.val + 1)
    (hlast : fmode = .packedWord ∨ fp.val = 2) :
    framePosition fmode fi' 0 = framePosition fmode fi fp + 1 := by
  cases fmode with
  | packedWord => exact h
  | byteTriplet =>
    have hblue : fp.val = 2 := hlast.resolve_left (by decide)
    simp only [framePosition, h, hblue]
    rfl

theorem framePosition_last {fmode : WireMode} {fi : Fin 25} {fp : Fin 3} (h : fi.val = 24)
    (hlast : fmode = .packedWord ∨ fp.val = 2) : framePosition fmode fi fp + 1 = frameLength fmode := by
  cases fmode with
  | packedWord => simp only [framePosition, frameLength, h]
  | byteTriplet =>
    have hblue : fp.val = 2 := hlast.resolve_left (by decide)
    simp only [framePosition, frameLength, h, hblue]

/-- The `emit` step moves one position on (R98). -/
theorem emitStep_position (fmode : WireMode) (fi : Fin 25) (fp : Fin 3) (s : State) :
    OnePositionOn fmode fi fp s (emitStep fmode fi fp s) := by
  have ho := emitStep_outcome fmode fi fp s
  generalize emitStep fmode fi fp s = t at ho
  cases ho with
  | phase h hmode =>
    subst hmode
    exact .inl ⟨_, _, rfl, by simp, rfl, rfl⟩
  | pixel h hlast => exact .inl ⟨_, _, rfl, fun _ => rfl, framePosition_nextPixel rfl hlast, rfl⟩
  | completes h24 hlast => exact .inr ⟨rfl, framePosition_last h24 hlast, rfl⟩

theorem onePositionOn_advance {fmode : WireMode} {fi : Fin 25} {fp : Fin 3} {s t : State}
    (h : OnePositionOn fmode fi fp s t) : OnePositionOn fmode fi fp s t.advance := by
  simpa only [OnePositionOn, State.advance_seq, State.advance_rsp] using h

/-- Everything a step of a flush without reset does: it hands over the offered unit and moves one position on, or
it stalls and the block stays as it is (R98, R101). -/
theorem flush_step {s t : State} {fmode : WireMode} {fi : Fin 25} {fp : Fin 3} (hs : s.seq = .flush fmode fi fp)
    (hrst : s.ports.rst = false) (hstep : step s = .next t) :
    (s.ports.outReady = true ∧ SameRegisters s t ∧ t.out = s.out ++ [unitOf fmode s.pb[fi] fp] ∧
      OnePositionOn fmode fi fp s t) ∨
    (s.ports.outReady = false ∧ SameBlock s t) := by
  cases hready : s.ports.outReady with
  | true =>
    cases (step_emits ⟨hrst, hs, hready⟩).symm.trans hstep
    obtain ⟨hregs, -, hout⟩ := emitStep_advance_frame fmode fi fp s
    exact .inl ⟨rfl, hregs, hout, onePositionOn_advance (emitStep_position fmode fi fp s)⟩
  | false =>
    cases (step_stalls hs hrst hready).symm.trans hstep
    exact .inr ⟨rfl, sameBlock_advance s⟩

/-- Without a transfer nothing is appended to the output (R47). -/
theorem stepOutcome_out {s t : State} (h : StepOutcome s t)
    (hno : ¬ (s.ports.rst = false ∧ s.outValid = true ∧ s.ports.outReady = true)) : t.out = s.out := by
  cases h with
  | emits fmode fi fp hemits =>
    obtain ⟨hrst, hseq, hready⟩ := hemits
    exact absurd ⟨hrst, (outValid_iff s).mpr ⟨_, _, _, hseq⟩, hready⟩ hno
  | takes req i _ _ _ ho => cases ho <;> rfl
  | _ => rfl

/-- Settles O53: `flush_step` for a flush, and no other step appends. -/
theorem unitsAreHandedOverExactlyOnce : Obligations.UnitsAreHandedOverExactlyOnce := by
  intro s t hstep
  constructor
  · intro fmode fi fp hrst hseq
    rcases flush_step hseq hrst hstep with ⟨hready, -, hout, hpos⟩ | ⟨hready, hseq', hregs, -, -⟩
    · refine ⟨fun _ => ⟨⟨_, offered_of_flush hseq, hout⟩, ?_⟩, by simp [hready]⟩
      rcases hpos with ⟨fi', fp', hnext, -, hpos, -⟩ | ⟨hidle, hpos, -⟩
      · exact .inl ⟨fi', fp', hnext, hpos⟩
      · exact .inr ⟨hidle, hpos⟩
    · exact ⟨by simp [hready], fun _ => ⟨hseq', offered_congr hseq' hregs.1⟩⟩
  · intro hno
    obtain ⟨u, rfl, ho⟩ := step_cases hstep
    rw [State.advance_out, stepOutcome_out ho hno]

/-! ### The invariant of a flush in progress -/

theorem flushInv_of_not_flushing {s : State} (h : ¬ s.Flushing) : FlushInv s :=
  fun fmode fi fp hs => absurd ⟨fmode, fi, fp, hs⟩ h

theorem not_flushing_of_idle {s : State} (h : s.seq = .idle) : ¬ s.Flushing := by
  rintro ⟨_, _, _, hs⟩
  cases h.symm.trans hs

theorem not_flushing_of_fault {s : State} {code : FaultCode} (h : s.seq = .fault code) : ¬ s.Flushing := by
  rintro ⟨_, _, _, hs⟩
  cases h.symm.trans hs

/-- At the start of a flush nothing has been handed over. -/
theorem flushInv_start {s : State} {fmode : WireMode} (h : s.seq = .flush fmode 0 0) : FlushInv s := by
  intro _ _ _ hs
  cases h.symm.trans hs
  rw [framePosition_start, List.take_zero]
  exact ⟨fun _ => rfl, List.nil_suffix⟩

theorem execOutcome_flushInv {i : Instr} {s t : State} (h : ExecOutcome i s t) : FlushInv t := by
  cases h with
  | faults => exact flushInv_of_not_flushing (not_flushing_of_fault rfl)
  | responds | writes => exact flushInv_of_not_flushing (not_flushing_of_idle rfl)
  | flushes | accepts => exact flushInv_start rfl

/-- A unit more is handed over and the position is one on. -/
theorem emitStep_flushInv {s : State} {fmode : WireMode} {fi : Fin 25} {fp : Fin 3} (hs : s.seq = .flush fmode fi fp)
    (hinv : FlushInv s) : FlushInv (emitStep fmode fi fp s) := by
  rcases emitStep_position fmode fi fp s with ⟨fi', fp', hnext, hphase, hpos, -⟩ | ⟨hidle, -, -⟩
  · intro _ _ _ ht
    cases hnext.symm.trans ht
    obtain ⟨-, hsent⟩ := hinv fmode fi fp hs
    rw [emitStep_pb, emitStep_out, hpos, frame_take_succ]
    exact ⟨hphase, (List.suffix_append_self_iff).mpr hsent⟩
  · exact flushInv_of_not_flushing (not_flushing_of_idle hidle)

theorem flushInv_advance {s : State} (h : FlushInv s) : FlushInv s.advance := by
  simpa only [FlushInv, State.advance_seq, State.advance_pb, State.advance_out] using h

/-- Settles O38: a `take` step starts a flush at position 0, an `emit` step moves one unit, and the other steps leave
the flush alone or leave it. -/
theorem stepKeepsFlushInvariant : Obligations.StepKeepsFlushInvariant := by
  intro s t hinv hstep
  obtain ⟨u, rfl, ho⟩ := step_cases hstep
  apply flushInv_advance
  cases ho with
  | resets => exact flushInv_of_not_flushing (not_flushing_of_idle rfl)
  | waits | stalls | stopped => exact hinv
  | takes _ _ _ _ _ ho => exact execOutcome_flushInv ho
  | reserved => exact flushInv_of_not_flushing (not_flushing_of_fault rfl)
  | emits fmode fi fp hemits => exact emitStep_flushInv hemits.2.1 hinv

/-- Settles O39: no flush is in progress after reset. -/
theorem resetMeetsFlushInvariant : Obligations.ResetMeetsFlushInvariant :=
  flushInv_of_not_flushing (not_flushing_of_idle rfl)

/-! ### A whole flush -/

/-- A flush ends one step later than the flush of the next state. -/
theorem flushEndsIn_succ {s u t : State} {n : Nat} (hstep : step s = .next u) :
    FlushEndsIn s (n + 1) t ↔ s.Flushing ∧ FlushEndsIn u n t := by
  have hlasts := flushLasts_succ hstep n
  simp only [FlushLasts] at hlasts
  simp only [FlushEndsIn, run_succ hstep, hlasts]
  tauto

/-- A flush that has ended ends in no step more. -/
theorem flushEndsIn_idle {s t : State} {n : Nat} (hs : s.seq = .idle) (h : FlushEndsIn s n t) : t = s := by
  obtain ⟨hrun, -, hlasts⟩ := h
  cases n with
  | zero => cases hrun; rfl
  | succ n => exact absurd (hlasts 0 (by omega) s (run_zero s)) (not_flushing_of_idle hs)

theorem flushEndsIn_zero {s : State} (hs : s.seq = .idle) : FlushEndsIn s 0 s :=
  ⟨run_zero s, hs, by omega⟩

/-- What a flush from any position leaves where it ends: the rest of its frame handed over and one response (R100). -/
def Completes (fmode : WireMode) (fi : Fin 25) (fp : Fin 3) (s t : State) : Prop :=
  t.out = s.out ++ (frame fmode s.pb).drop (framePosition fmode fi fp) ∧ t.rsp = s.rsp ++ [⟨.done, 0⟩] ∧
  SameRegisters s t

/-- A flush from any position, with any stalls, hands over exactly the rest of its frame (R100), by induction on the
number of steps. -/
theorem flush_completes {fmode : WireMode} (n : Nat) : ∀ {s t : State} {fi : Fin 25} {fp : Fin 3},
    s.seq = .flush fmode fi fp → NoReset s n → FlushEndsIn s n t → Completes fmode fi fp s t := by
  induction n with
  | zero =>
    intro s t fi fp hs _ ⟨hrun, hidle, _⟩
    cases hrun
    exact absurd ⟨_, _, _, hs⟩ (not_flushing_of_idle hidle)
  | succ n ih =>
    intro s t fi fp hs hreset hends
    obtain ⟨u, hstep, -⟩ := run_step hends.1
    obtain ⟨-, hends⟩ := (flushEndsIn_succ hstep).mp hends
    have hrst : s.ports.rst = false := by rw [ports_eq_upcoming_zero]; exact hreset 0 (by omega)
    have hreset' := noReset_step hstep hreset
    rcases flush_step hs hrst hstep with ⟨-, hregs, hout, hpos⟩ | ⟨-, hsame⟩
    · have hpb : u.pb = s.pb := hregs.1
      rcases hpos with ⟨fi', fp', hnext, -, hpos, hrsp⟩ | ⟨hidle, hpos, hrsp⟩
      · obtain ⟨hout', hrsp', hregs'⟩ := ih hnext hreset' hends
        refine ⟨?_, by rw [hrsp', hrsp], sameRegisters_trans hregs hregs'⟩
        rw [hout', hout, hpb, hpos, frame_drop_position fmode s.pb fi fp, List.append_assoc, List.singleton_append]
      · cases flushEndsIn_idle hidle hends
        refine ⟨?_, hrsp, hregs⟩
        rw [hout, frame_drop_position, hpos, frame_drop_length]
    · obtain ⟨hseq, hregs, hout, hrsp⟩ := hsame
      have hpb : u.pb = s.pb := hregs.1
      obtain ⟨hout', hrsp', hregs'⟩ := ih (hseq.trans hs) hreset' hends
      exact ⟨by rw [hout', hout, hpb], by rw [hrsp', hrsp], sameRegisters_trans hregs hregs'⟩

/-- Settles O35: at the start the rest of the frame is the whole frame. -/
theorem completedFlushEmitsExactlyItsFrame : Obligations.CompletedFlushEmitsExactlyItsFrame := by
  intro s t fmode n hs hreset hends
  obtain ⟨hout, hrsp, hregs⟩ := flush_completes n hs hreset hends
  rw [framePosition_start, List.drop_zero] at hout
  exact ⟨hout, hrsp, hregs, run_cfg hends.1⟩

/-! ### Under a ready sink -/

theorem readyCount_succ {s t : State} (h : step s = .next t) (n : Nat) :
    readyCount s (n + 1) = readyCount t n + if s.ports.outReady = true then 1 else 0 := by
  simp only [readyCount, List.range_succ_eq_map, List.countP_cons, List.countP_map, ports_eq_upcoming_zero,
    Function.comp_def, upcoming_step h]

/-- Where the next state's flush ends, or has ended, within `n` steps, the flush ends within one step more. -/
theorem flushEndsWithin_step {s u : State} {n : Nat} (hs : s.Flushing) (hstep : step s = .next u)
    (h : ∃ m t, m ≤ n ∧ FlushEndsIn u m t) : ∃ m t, m ≤ n + 1 ∧ FlushEndsIn s m t := by
  obtain ⟨m, t, hm, hends⟩ := h
  exact ⟨m + 1, t, by omega, (flushEndsIn_succ hstep).mpr ⟨hs, hends⟩⟩

/-- A flush ends within steps in which the sink is ready as often as units are left of its frame, by induction on the
number of steps. -/
theorem flush_ends_of_readyCount {fmode : WireMode} (n : Nat) : ∀ {s : State} {fi : Fin 25} {fp : Fin 3},
    s.seq = .flush fmode fi fp → NoReset s n → frameLength fmode ≤ framePosition fmode fi fp + readyCount s n →
    ∃ m t, m ≤ n ∧ FlushEndsIn s m t := by
  induction n with
  | zero =>
    intro s fi fp _ _ hcount
    have hlt := framePosition_lt fmode fi fp
    have hzero : readyCount s 0 = 0 := rfl
    omega
  | succ n ih =>
    intro s fi fp hs hreset hcount
    obtain ⟨u, hstep, -⟩ := step_outcome s
    have hrst : s.ports.rst = false := by rw [ports_eq_upcoming_zero]; exact hreset 0 (by omega)
    have hreset' := noReset_step hstep hreset
    rw [readyCount_succ hstep] at hcount
    apply flushEndsWithin_step ⟨_, _, _, hs⟩ hstep
    rcases flush_step hs hrst hstep with ⟨hready, -, -, hpos⟩ | ⟨hready, hseq, -⟩
    · rcases hpos with ⟨fi', fp', hnext, -, hpos, -⟩ | ⟨hidle, -, -⟩
      · rw [if_pos hready] at hcount
        exact ih hnext hreset' (by omega)
      · exact ⟨0, u.advance, Nat.zero_le n, flushEndsIn_zero hidle⟩
    · exact ih (hseq.trans hs) hreset' (by simpa [hready] using hcount)

/-- Settles O36: a frame's length is at least what is left of it. -/
theorem flushCompletesUnderReadySink : Obligations.FlushCompletesUnderReadySink :=
  fun _ _ _ _ n hs hreset hcount => flush_ends_of_readyCount n hs hreset (by omega)

/-- With the sink always ready a flush takes as many steps as units are left of its frame. -/
theorem flush_ends_of_alwaysReady {fmode : WireMode} (n : Nat) : ∀ {s : State} {fi : Fin 25} {fp : Fin 3},
    s.seq = .flush fmode fi fp → framePosition fmode fi fp + n = frameLength fmode → NoReset s n → AlwaysReady s n →
    ∃ t, FlushEndsIn s n t := by
  induction n with
  | zero =>
    intro s fi fp _ hn _ _
    have hlt := framePosition_lt fmode fi fp
    omega
  | succ n ih =>
    intro s fi fp hs hn hreset hready
    have hemits := emits_of_alwaysReady hs hreset hready
    have hstep := step_emits hemits
    have hflushing : s.Flushing := ⟨_, _, _, hs⟩
    rcases onePositionOn_advance (emitStep_position fmode fi fp s) with ⟨fi', fp', hnext, -, hpos, -⟩ | ⟨hidle, hpos, -⟩
    · obtain ⟨t, hends⟩ := ih hnext (by omega) (noReset_step hstep hreset) (alwaysReady_step hstep hready)
      exact ⟨t, (flushEndsIn_succ hstep).mpr ⟨hflushing, hends⟩⟩
    · obtain rfl : n = 0 := by omega
      exact ⟨_, (flushEndsIn_succ hstep).mpr ⟨hflushing, flushEndsIn_zero hidle⟩⟩

/-- Settles O37: at the start the whole frame is left. -/
theorem unstalledFlushTakesFrameLengthSteps : Obligations.UnstalledFlushTakesFrameLengthSteps := by
  intro s fmode hs hreset hready
  exact flush_ends_of_alwaysReady _ hs (by rw [framePosition_start, Nat.zero_add]) hreset hready

/-! ### Under a weakly fair sink -/

/-- The end of the next state's flush is the end of the flush. -/
theorem exists_flushEndsIn_step {s u : State} (hs : s.Flushing) (hstep : step s = .next u)
    (h : ∃ n t, FlushEndsIn u n t) : ∃ n t, FlushEndsIn s n t := by
  obtain ⟨n, t, hends⟩ := h
  exact ⟨n + 1, t, (flushEndsIn_succ hstep).mpr ⟨hs, hends⟩⟩

theorem noResetDuringFlush_first {s : State} (hs : s.Flushing) (h : NoResetDuringFlush s) : s.ports.rst = false := by
  obtain ⟨u, hstep, -⟩ := step_outcome s
  rw [ports_eq_upcoming_zero]
  exact h 0 ((flushLasts_succ hstep 0).mpr ⟨hs, flushLasts_zero _⟩)

/-- In a flush a weakly fair sink is ready now or later. -/
theorem sinkWeaklyFair_first {s : State} (hs : s.Flushing) (h : SinkWeaklyFair s) :
    ∃ j, (s.upcoming j).outReady = true := by
  obtain ⟨u, hstep, -⟩ := step_outcome s
  obtain ⟨j, -, hj⟩ := h 0 ((flushLasts_succ hstep 0).mpr ⟨hs, flushLasts_zero _⟩)
  exact ⟨j, hj⟩

/-- A weakly fair sink sees the flush to its end: by induction on the units left of the frame, and for each of them on
the number of steps until the sink is ready. -/
theorem flush_ends_of_weaklyFair {fmode : WireMode} (left : Nat) :
    ∀ (wait : Nat) {s : State} {fi : Fin 25} {fp : Fin 3},
    s.seq = .flush fmode fi fp → framePosition fmode fi fp + left = frameLength fmode → NoResetDuringFlush s →
    SinkWeaklyFair s → (s.upcoming wait).outReady = true → ∃ n t, FlushEndsIn s n t := by
  induction left with
  | zero =>
    intro _ s fi fp _ hleft
    have hlt := framePosition_lt fmode fi fp
    omega
  | succ left ihLeft =>
    have afterUnit : ∀ {s u : State} {fi : Fin 25} {fp : Fin 3}, OnePositionOn fmode fi fp s u →
        framePosition fmode fi fp + (left + 1) = frameLength fmode → NoResetDuringFlush u → SinkWeaklyFair u →
        ∃ n t, FlushEndsIn u n t := by
      intro s u fi fp hpos hleft hreset hfair
      rcases hpos with ⟨fi', fp', hnext, -, hpos, -⟩ | ⟨hidle, -, -⟩
      · obtain ⟨wait, hwait⟩ := sinkWeaklyFair_first ⟨_, _, _, hnext⟩ hfair
        exact ihLeft wait hnext (by omega) hreset hfair hwait
      · exact ⟨0, u, flushEndsIn_zero hidle⟩
    intro wait
    induction wait with
    | zero =>
      intro s fi fp hs hleft hreset hfair hready
      have hflushing : s.Flushing := ⟨_, _, _, hs⟩
      have hstep := step_emits ⟨noResetDuringFlush_first hflushing hreset, hs, by rwa [ports_eq_upcoming_zero]⟩
      exact exists_flushEndsIn_step hflushing hstep
        (afterUnit (onePositionOn_advance (emitStep_position fmode fi fp s)) hleft
          (noResetDuringFlush_step hstep hflushing hreset) (sinkWeaklyFair_step hstep hflushing hfair))
    | succ wait ihWait =>
      intro s fi fp hs hleft hreset hfair hready
      have hflushing : s.Flushing := ⟨_, _, _, hs⟩
      obtain ⟨u, hstep, -⟩ := step_outcome s
      have hreset' := noResetDuringFlush_step hstep hflushing hreset
      have hfair' := sinkWeaklyFair_step hstep hflushing hfair
      apply exists_flushEndsIn_step hflushing hstep
      rcases flush_step hs (noResetDuringFlush_first hflushing hreset) hstep with ⟨-, -, -, hpos⟩ | ⟨-, hseq, -⟩
      · exact afterUnit hpos hleft hreset' hfair'
      · exact ihWait (hseq.trans hs) hleft hreset' hfair' (by rw [upcoming_step hstep]; exact hready)

/-- Settles O58: the duty gives the first number of steps to wait. -/
theorem weaklyFairSinkCompletesTheFlush : Obligations.WeaklyFairSinkCompletesTheFlush := by
  intro s fmode fi fp hs hreset hfair
  obtain ⟨wait, hwait⟩ := sinkWeaklyFair_first ⟨_, _, _, hs⟩ hfair
  have hlt := framePosition_lt fmode fi fp
  exact flush_ends_of_weaklyFair (frameLength fmode - framePosition fmode fi fp) wait hs (by omega) hreset hfair hwait

/-- A request held up to the step after `n` steps of the flush is taken by that step, the block being in IDLE. -/
theorem takes_of_holdsRequest {s t : State} {req : Request} {n : Nat} (h : HoldsRequest s req)
    (hends : FlushEndsIn s n t) : t.Takes req ∧ FlushLasts s n := by
  obtain ⟨hrun, hidle, hlasts⟩ := hends
  obtain ⟨hrst, hreq⟩ := h n hlasts
  rw [← ports_run n hrun] at hrst hreq
  exact ⟨⟨hrst, hidle, hreq⟩, hlasts⟩

/-- Settles O59: in IDLE at once, in a flush at its end, which comes under the sink's duty. -/
theorem heldRequestIsTaken : Obligations.HeldRequestIsTaken := by
  intro s req hnofault hfair hholds
  have hends : ∃ n t, FlushEndsIn s n t := by
    cases hseq : s.seq with
    | idle => exact ⟨0, s, flushEndsIn_zero hseq⟩
    | flush fmode fi fp =>
      exact weaklyFairSinkCompletesTheFlush s fmode fi fp hseq (holdsRequest_noReset hholds) hfair
    | fault code => exact absurd hseq (hnofault code)
  obtain ⟨n, t, hends⟩ := hends
  obtain ⟨htakes, hlasts⟩ := takes_of_holdsRequest hholds hends
  exact ⟨n, t, hends.1, htakes, hlasts⟩

end Sys2Proof.Machine
end

section
/-! The family of 44_debounce.md, continued: the outcomes of an event (R107 to R113), and what they leave true of the
timer (R33, R139) and of the product's buffer (R110). Every digit and every timestamp of a run comes from an accepted
event or from reset (`stepOutcome_timer`). -/

namespace Sys2Proof.Machine

/-! ### Accepted events -/

theorem acceptEvent_surroundings (d' : Fin 10) (now : Timestamp) (s : State) :
    SameSurroundings s (acceptEvent d' now s) := ⟨rfl, rfl, rfl⟩

/-- The buffer an accepted event leaves is the new digit's glyph (R110). -/
theorem acceptEvent_rendered (d' : Fin 10) (now : Timestamp) (s : State) :
    RenderedAs (acceptEvent d' now s).pb s.cfg.glyph[d'] s.cfg.intensity :=
  renderedAs_renderBuffer s.cfg.glyph[d'] s.cfg.intensity

/-- An accepted event of either button: the new digit, the timer, the rendered buffer and the flush started, in one
step (R107, R108, R110). -/
theorem exec_accepted_frame {i : Instr} {s : State} {d' : Fin 10} (h : MovesDigit i s.digit d')
    (he : 50 < elapsedMs s.ports.now s.lastT) :
    ∃ t, exec i s = .next t ∧ t.digit.val = d'.val ∧ t.lastT = s.ports.now ∧
      RenderedAs t.pb s.cfg.glyph[t.digit] s.cfg.intensity ∧ t.seq = .flush s.cfg.wireMode 0 0 ∧
      t.out = s.out ∧ t.rsp = s.rsp ∧ SameSurroundings s t :=
  ⟨_, exec_accepted h he, rfl, rfl, acceptEvent_rendered d' s.ports.now s, rfl, rfl, rfl,
    acceptEvent_surroundings d' s.ports.now s⟩

/-- Settles O41: the accepted event that moves the digit by `incDigit`. -/
theorem acceptedIncrement : Obligations.AcceptedIncrement :=
  ⟨by decide, fun s => exec_accepted_frame (movesDigit_evtInc s.digit)⟩

/-- Settles O42: the accepted event that moves the digit by `decDigit`. -/
theorem acceptedDecrement : Obligations.AcceptedDecrement :=
  ⟨by decide, fun s => exec_accepted_frame (movesDigit_evtDec s.digit)⟩

/-- The step that takes an accepted event (R110). -/
theorem step_accepted {i : Instr} {s : State} {d' : Fin 10} (htakes : s.Takes (encode i))
    (h : MovesDigit i s.digit d') (he : 50 < elapsedMs s.ports.now s.lastT) :
    step s = .next (acceptEvent d' s.ports.now s).advance := by
  rw [step_takes htakes (decode_encode i), exec_accepted h he]
  rfl

/-- Settles O47: RENDER writes the same buffer, and the flush operation of the mode starts the same flush. -/
theorem acceptedEventEqualsDirectOperations : Obligations.AcceptedEventEqualsDirectOperations := by
  intro s t i d' hmove he hexec
  cases (exec_accepted hmove he).symm.trans hexec
  rw [execAll_cons (exec_render _ _ s), acceptEvent_pb, acceptEvent_seq, acceptEvent_out]
  cases s.cfg.wireMode with
  | packedWord => exact ⟨_, rfl, rfl, rfl, rfl⟩
  | byteTriplet => exact ⟨_, rfl, rfl, rfl, rfl⟩

/-! ### Rising edges and rejected events -/

/-- Settles O43: the operation is the response `IGNORED`, which reads no input. -/
theorem risingEdgeIsIgnored : Obligations.RisingEdgeIsIgnored := by
  intro src s
  have hexec (u : State) : exec (.evtRise src) u = .next (finish .ignored 0 u) := rfl
  obtain ⟨hregs, hsurr⟩ := finish_frame .ignored 0 s
  refine ⟨⟨_, hexec s, finish_rsp _ _ _, finish_seq _ _ _, hregs, hsurr, finish_out _ _ _⟩, ?_⟩
  intro p rest now hin hrst hidle hreq
  let s' := s.withInputs ({ p with now := now } :: rest)
  have hp : s.ports = p := ports_cons hin
  have htakes : s.Takes (encode (.evtRise src)) := ⟨hp ▸ hrst, hidle, hp ▸ hreq⟩
  have htakes' : s'.Takes (encode (.evtRise src)) := ⟨hrst, hidle, hreq⟩
  change step s' = step s
  rw [step_takes htakes (decode_encode _), step_takes htakes' (decode_encode _), hexec, hexec]
  have hadvance : (finish .ignored 0 s).advance = (finish .ignored 0 s).withInputs rest := advance_cons hin
  rw [onNext, onNext, hadvance]
  rfl

/-! ### Outcomes (R112, R113) -/

/-- The step that takes a rejected event (R106). -/
theorem step_rejected {i : Instr} {s : State} {d' : Fin 10} (htakes : s.Takes (encode i))
    (h : MovesDigit i s.digit d') (he : elapsedMs s.ports.now s.lastT ≤ 50) :
    ∃ t, step s = .next t ∧ t.rsp = s.rsp ++ [⟨.rejected, 0⟩] ∧ SameRegisters s t ∧ t.out = s.out ∧
      t.seq = .idle ∧ t.faultLine = false ∧ t.reqReady = true :=
  step_responds htakes (decode_encode i) (exec_rejected h he)

/-- Settles O46: an accepted event is its step and then the whole flush of O35; the others are one response. -/
theorem eventOutcomes : Obligations.EventOutcomes := by
  intro s i htakes
  refine ⟨?_, ?_, ?_⟩
  · intro d' u t n hmove he hreset hstep hends
    have hreset' := noReset_step hstep hreset
    cases (step_accepted htakes hmove he).symm.trans hstep
    obtain ⟨hout, hrsp, ⟨hpb, hdigit, hlastT⟩, -⟩ :=
      completedFlushEmitsExactlyItsFrame _ t _ n (State.advance_seq _) hreset' hends
    simp only [State.advance_out, State.advance_rsp, State.advance_pb, State.advance_digit, State.advance_lastT,
      acceptEvent_out, acceptEvent_rsp, acceptEvent_digit, acceptEvent_lastT] at hout hrsp hpb hdigit hlastT
    rw [← hpb] at hout
    refine ⟨hdigit, hlastT, ?_, hout, hrsp⟩
    rw [hpb]
    exact acceptEvent_rendered d' s.ports.now s
  · intro d' hmove he
    obtain ⟨t, hstep, hrsp, hregs, hout, -⟩ := step_rejected htakes hmove he
    exact ⟨t, hstep, hregs, hout, hrsp⟩
  · rintro src rfl
    obtain ⟨t, hstep, hrsp, hregs, hout, -⟩ := step_responds htakes (decode_encode _) rfl
    exact ⟨t, hstep, hregs, hout, hrsp⟩

/-- Against a timer at 0 the elapsed time is the time itself (R113). -/
theorem elapsedMs_zero (now : Timestamp) : elapsedMs now 0 = now.toNat := by
  have hzero : (0 : Timestamp).toNat = 0 := rfl
  rw [elapsedMs, hzero, Nat.sub_zero, Nat.add_mod_right, Nat.mod_eq_of_lt now.isLt]

/-- An event moves the digit 0 to 1 or to 9 (R152). -/
theorem movesDigit_zero {i : Instr} {d' : Fin 10} (h : MovesDigit i 0 d') : d' = 1 ∨ d' = 9 := by
  rcases h with ⟨-, hval⟩ | ⟨-, hval⟩
  · exact .inl (Fin.ext hval)
  · exact .inr (Fin.ext hval)

/-- Settles O48: with `LAST_T = 0` the guard compares the time itself with 50. -/
theorem firstEventAfterReset : Obligations.FirstEventAfterReset := by
  intro p rest i d' hrst hreq hmove
  have htakes : (State.reset.withInputs (p :: rest)).Takes (encode i) := ⟨hrst, rfl, hreq⟩
  have helapsed : elapsedMs p.now (State.reset.withInputs (p :: rest)).lastT = p.now.toNat := elapsedMs_zero p.now
  change ∃ t, step (State.reset.withInputs (p :: rest)) = .next t ∧ _
  by_cases hnow : p.now.toNat ≤ 50
  · obtain ⟨t, hstep, hrsp, ⟨-, hdigit, hlastT⟩, -, hidle, -⟩ := step_rejected htakes hmove (helapsed.trans_le hnow)
    exact ⟨t, hstep, fun _ => ⟨hdigit, hlastT, hidle, hrsp⟩, fun h => by omega⟩
  · refine ⟨_, step_accepted htakes hmove (helapsed.symm ▸ (by omega : 50 < p.now.toNat)), fun h => by omega,
      fun _ => ⟨State.advance_digit _, movesDigit_zero hmove, State.advance_lastT _, ?_, ?_⟩⟩
    · exact (outValid_iff _).mpr ⟨_, _, _, State.advance_seq _⟩
    · rw [State.advance_pb, State.advance_cfg]
      exact acceptEvent_rendered d' p.now _

/-! ### Who writes the digit and the timer -/

/-- A digit or a timestamp is written by reset and by an accepted event only, and the latter writes everything at once
(R22, R23, R110). -/
theorem stepOutcome_timer {s t : State} (h : StepOutcome s t) :
    (t.digit = s.digit ∧ t.lastT = s.lastT) ∨ (s.ports.rst = true ∧ t = resetRegisters s) ∨
    ∃ i d', s.Takes (encode i) ∧ MovesDigit i s.digit d' ∧ 50 < elapsedMs s.ports.now s.lastT ∧
      t = acceptEvent d' s.ports.now s := by
  cases h with
  | resets hrst => exact .inr (.inl ⟨hrst, rfl⟩)
  | waits | stalls | stopped | reserved => exact .inl ⟨rfl, rfl⟩
  | emits fmode fi fp => exact .inl ⟨emitStep_digit fmode fi fp s, emitStep_lastT fmode fi fp s⟩
  | takes req i _ htakes hdecode ho =>
    cases ho with
    | faults | responds | writes | flushes => exact .inl ⟨rfl, rfl⟩
    | accepts d' _ hmove he => exact .inr (.inr ⟨i, d', (encode_decode hdecode).symm ▸ htakes, hmove, he, rfl⟩)

/-- Settles O51: without reset only the accepted event is left. -/
theorem onlyAcceptedEventsWriteDigitAndTimer : Obligations.OnlyAcceptedEventsWriteDigitAndTimer := by
  intro s t hrst hstep hwritten
  obtain ⟨u, rfl, ho⟩ := step_cases hstep
  simp only [State.advance_digit, State.advance_lastT, State.advance_seq, State.advance_pb] at hwritten ⊢
  rcases stepOutcome_timer ho with ⟨hdigit, hlastT⟩ | ⟨hrst', -⟩ | ⟨i, d', ⟨-, hidle, hreq⟩, hmove, he, rfl⟩
  · exact absurd hwritten (by simp [hdigit, hlastT])
  · simp [hrst] at hrst'
  · exact ⟨hidle, ⟨i, hreq, hmove⟩, he, rfl, movesDigit_ne hmove, rfl, acceptEvent_rendered d' s.ports.now s⟩

/-- The events that move the digit are the ones that sample the time (R69). -/
theorem samplesTime_of_movesDigit {s : State} {i : Instr} {d d' : Fin 10} (htakes : s.Takes (encode i))
    (h : MovesDigit i d d') : s.SamplesTime := by
  rcases h with ⟨rfl, -⟩ | ⟨rfl, -⟩
  · exact .inl htakes
  · exact .inr htakes

/-- The timer after one step (R23). -/
theorem step_lastT {s t : State} (h : step s = .next t) :
    t.lastT = s.lastT ∨ (s.ports.rst = true ∧ t.lastT = 0) ∨
    (s.SamplesTime ∧ 50 < elapsedMs s.ports.now s.lastT ∧ t.lastT = s.ports.now) := by
  obtain ⟨u, rfl, ho⟩ := step_cases h
  rw [State.advance_lastT]
  rcases stepOutcome_timer ho with ⟨-, hlastT⟩ | ⟨hrst, rfl⟩ | ⟨i, d', htakes, hmove, he, rfl⟩
  · exact .inl hlastT
  · exact .inr (.inl ⟨hrst, rfl⟩)
  · exact .inr (.inr ⟨samplesTime_of_movesDigit htakes hmove, he, rfl⟩)

/-- Settles O50, by induction on the number of steps, the last step split off. -/
theorem timerHoldsASampledTime : Obligations.TimerHoldsASampledTime := by
  intro n
  induction n with
  | zero => intro s t h; cases h; exact .inl rfl
  | succ n ih =>
    intro s t h
    obtain ⟨u, hu⟩ := everyRunGoesOn n s
    have hstep : step u = .next t := (run_succ_last n hu).symm.trans h
    rcases step_lastT hstep with hsame | ⟨hrst, hzero⟩ | ⟨hsamples, he, hnow⟩
    · rw [hsame]
      rcases ih s u hu with hstart | ⟨hzero, k, v, hk, hv, hrst⟩ | ⟨k, v, hk, hv, hsampled⟩
      · exact .inl hstart
      · exact .inr (.inl ⟨hzero, k, v, by omega, hv, hrst⟩)
      · exact .inr (.inr ⟨k, v, by omega, hv, hsampled⟩)
    · exact .inr (.inl ⟨hzero, n, u, by omega, hu, hrst⟩)
    · exact .inr (.inr ⟨n, u, by omega, hu, hsamples, he, hnow⟩)

/-- Settles O49: the timer holds a value sampled earlier (O50), which monotonic time keeps at most `now`. -/
theorem monotonicTimeNeverWraps : Obligations.MonotonicTimeNeverWraps := by
  intro n s hmonotonic hstart k t hk hrun hsamples
  have hle : t.lastT.toNat ≤ t.ports.now.toNat := by
    rcases timerHoldsASampledTime k s t hrun with hlast | ⟨hlast, -⟩ | ⟨j, u, hj, hu, husamples, -, hlast⟩
    · rw [hlast]; exact hstart k t hk hrun hsamples
    · rw [hlast]; exact Nat.zero_le _
    · rw [hlast]; exact hmonotonic j k u t hj hk hu hrun husamples hsamples
  exact ⟨hle, BitVec.toNat_sub_of_le hle⟩

/-! ### The product's buffer (R110) -/

/-- The digit shown depends on the digit, the buffer and the configuration alone. -/
theorem showsDigit_congr {s t : State} (h : ShowsDigit s) (hregs : SameRegisters s t) (hcfg : t.cfg = s.cfg) :
    ShowsDigit t := by
  obtain ⟨hpb, hdigit, -⟩ := hregs
  simpa only [ShowsDigit, hpb, hdigit, hcfg] using h

/-- The presented word, if there is one, is an event (R70). -/
def PresentsEvent (p : PortInputs) : Prop :=
  ∀ req, p.req = some req →
    req = 0x6000000000#40 ∨ req = 0x6000000001#40 ∨ req = 0x6000000002#40 ∨ req = 0x6000000003#40

/-- An event leaves the digit and the buffer alone or writes both (R110). -/
theorem execOutcome_showsDigit {i : Instr} {s t : State} (h : ExecOutcome i s t)
    (hevent : i = .evtInc ∨ i = .evtDec ∨ ∃ src, i = .evtRise src) (hs : ShowsDigit s) : ShowsDigit t := by
  cases h with
  | faults | responds | flushes => exact showsDigit_congr hs ⟨rfl, rfl, rfl⟩ rfl
  | writes _ _ hwriter =>
    rcases hevent with rfl | rfl | ⟨src, rfl⟩ <;> simp at hwriter
  | accepts d' => exact .inr (acceptEvent_rendered d' s.ports.now s)

theorem stepOutcome_showsDigit {s t : State} (h : StepOutcome s t) (hevents : PresentsEvent s.ports)
    (hs : ShowsDigit s) : ShowsDigit t := by
  cases h with
  | resets => exact .inl ⟨rfl, clearBuffer_getElem⟩
  | waits | stalls | stopped => exact hs
  | reserved => exact showsDigit_congr hs ⟨rfl, rfl, rfl⟩ rfl
  | emits fmode fi fp =>
    obtain ⟨hregs, ⟨hcfg, -⟩, -⟩ := emitStep_frame fmode fi fp s
    exact showsDigit_congr hs hregs hcfg
  | takes req i _ htakes hdecode ho =>
    obtain ⟨-, -, hreq⟩ := htakes
    refine execOutcome_showsDigit ho ?_ hs
    rw [← encode_decode hdecode] at hreq
    rcases event_of_word (hevents _ hreq) with h | h | ⟨src, h⟩
    · exact .inl (encode_injective h)
    · exact .inr (.inl (encode_injective h))
    · exact .inr (.inr ⟨src, encode_injective h⟩)

theorem step_showsDigit {s t : State} (h : step s = .next t) (hevents : PresentsEvent s.ports) (hs : ShowsDigit s) :
    ShowsDigit t := by
  obtain ⟨u, rfl, ho⟩ := step_cases h
  obtain ⟨-, hregs, -, -⟩ := sameBlock_advance u
  exact showsDigit_congr (stepOutcome_showsDigit ho hevents hs) hregs (State.advance_cfg u)

/-- Settles O57: reset shows the dark buffer with digit 0, and every step keeps the buffer and the digit together. -/
theorem productBufferShowsCurrentDigit : Obligations.ProductBufferShowsCurrentDigit :=
  ⟨.inl ⟨rfl, clearBuffer_getElem⟩,
    fun n _ _ hs hevents hrun => run_keeps_while (C := PresentsEvent) step_showsDigit n hrun hevents hs⟩

end Sys2Proof.Machine
end

section
/-! The whole-machine rules: who writes the Pixel Buffer (R21, R51), the responses (R67), the ghost histories (R34) and
the order of the output (R50). The order rests on a conservation law: what is handed over and what the flush in progress
still owes grow together by the frame of each flush started (`step_out_owed`). -/

namespace Sys2Proof.Machine

/-! ### Writers of the Pixel Buffer -/

/-- Settles O52: of the steps without reset only a `take` writes the buffer, and of the operations only these. -/
theorem pixelBufferWriters : Obligations.PixelBufferWriters := by
  intro s t hrst hstep hwritten
  obtain ⟨u, rfl, ho⟩ := step_cases hstep
  rw [State.advance_pb] at hwritten
  cases ho with
  | resets hrst' => simp [hrst] at hrst'
  | waits | stalls | stopped | reserved => exact absurd rfl hwritten
  | emits fmode fi fp => exact absurd (emitStep_pb fmode fi fp s) hwritten
  | takes req i _ htakes hdecode ho =>
    obtain ⟨-, hidle, hreq⟩ := htakes
    rw [← encode_decode hdecode] at hreq
    cases ho with
    | faults | responds | flushes => exact absurd rfl hwritten
    | writes pb hwf hwriter =>
      refine ⟨hidle, i, hreq, hwf, ?_⟩
      rcases hwriter with h | h | h
      · exact .inl h
      · exact .inr (.inl h)
      · exact .inr (.inr (.inl h))
    | accepts d' hwf hmove he => exact ⟨hidle, i, hreq, hwf, .inr (.inr (.inr ⟨hmove.imp And.left And.left, he⟩))⟩

/-! ### Responses -/

/-- The step brings an operation to its end in IDLE (R67, R132). -/
def EndsOperation (s t : State) : Prop := t.seq = .idle ∧ ¬ (s.seq = .idle ∧ s.ports.req = none)

/-- Without reset a step appends one response where it ends an operation, and none elsewhere (R67). -/
def RespondsOnce (s t : State) : Prop :=
  (t.rsp = s.rsp ∧ ¬ EndsOperation s t) ∨ (∃ r, t.rsp = s.rsp ++ [r] ∧ EndsOperation s t)

theorem execOutcome_respondsOnce {i : Instr} {s t : State} {req : Request} (h : ExecOutcome i s t)
    (htakes : s.Takes req) : RespondsOnce s t := by
  have htaken : ¬ (s.seq = .idle ∧ s.ports.req = none) := by simp [htakes.2.2]
  cases h with
  | faults | flushes | accepts => exact .inl ⟨rfl, by simp [EndsOperation]⟩
  | responds | writes => exact .inr ⟨_, rfl, rfl, htaken⟩

theorem emitStep_respondsOnce {s : State} {fmode : WireMode} {fi : Fin 25} {fp : Fin 3}
    (hs : s.seq = .flush fmode fi fp) : RespondsOnce s (emitStep fmode fi fp s) := by
  rcases emitStep_position fmode fi fp s with ⟨fi', fp', hnext, -, -, hrsp⟩ | ⟨hidle, -, hrsp⟩
  · exact .inl ⟨hrsp, by simp [EndsOperation, hnext]⟩
  · exact .inr ⟨_, hrsp, hidle, by simp [hs]⟩

theorem stepOutcome_respondsOnce {s t : State} (hrst : s.ports.rst = false) (h : StepOutcome s t) :
    RespondsOnce s t := by
  cases h with
  | resets hrst' => simp [hrst] at hrst'
  | waits _ hidle hreq => exact .inl ⟨rfl, fun hends => hends.2 ⟨hidle, hreq⟩⟩
  | takes _ _ _ htakes _ ho => exact execOutcome_respondsOnce ho htakes
  | reserved => exact .inl ⟨rfl, by simp [EndsOperation]⟩
  | emits fmode fi fp hemits => exact emitStep_respondsOnce hemits.2.1
  | stalls fmode fi fp _ hseq => exact .inl ⟨rfl, by simp [EndsOperation, hseq]⟩
  | stopped code _ hseq => exact .inl ⟨rfl, by simp [EndsOperation, hseq]⟩

theorem step_respondsOnce {s t : State} (hrst : s.ports.rst = false) (h : step s = .next t) : RespondsOnce s t := by
  obtain ⟨u, rfl, ho⟩ := step_cases h
  simpa only [RespondsOnce, EndsOperation, State.advance_seq, State.advance_rsp] using
    stepOutcome_respondsOnce hrst ho

/-- Settles O54: the response signals read off the appended response. -/
theorem oneResponsePerCompletedOperation : Obligations.OneResponsePerCompletedOperation := by
  intro s t hrst hstep
  rcases step_respondsOnce hrst hstep with ⟨hsame, hnot⟩ | ⟨r, happend, hends⟩
  · have hnone : ¬ ∃ r, stepResponse s t = some r := by simp [stepResponse_same hsame]
    exact ⟨.inl hsame, fun h => absurd h hnone, fun h => absurd h hnot⟩
  · have hsome := stepResponse_append happend
    exact ⟨.inr ⟨r, happend, hsome⟩, fun _ => hends, fun _ => ⟨r, hsome⟩⟩

/-! ### The ghost histories are not read -/

/-- The state with other histories. -/
def State.withHistories (s : State) (out : List OutUnit) (rsp : List Response) : State :=
  { s with out := out, rsp := rsp }

/-- `f` appends to the histories of `s` and does not read them: with other histories it appends the same units and
responses and leaves the rest of the state the same (R34). -/
def AppendsOnly (f : State → Result) (s : State) : Prop :=
  ∃ t us rs, f s = .next t ∧ t.out = s.out ++ us ∧ t.rsp = s.rsp ++ rs ∧
    ∀ out rsp, f (s.withHistories out rsp) = .next (t.withHistories (out ++ us) (rsp ++ rs))

/-- What appends nothing. -/
theorem appendsOnly_of_silent {f : State → Result} {s : State} (u : State)
    (hf : ∀ out rsp, f (s.withHistories out rsp) = .next (u.withHistories out rsp)) : AppendsOnly f s :=
  ⟨u.withHistories s.out s.rsp, [], [], hf s.out s.rsp, (List.append_nil _).symm, (List.append_nil _).symm,
    fun out rsp => by rw [hf, List.append_nil, List.append_nil]; rfl⟩

/-- What ends in one response (R67). -/
theorem appendsOnly_of_response {f : State → Result} {s : State} (status : Status) (value : Pattern) (u : State)
    (hf : ∀ out rsp, f (s.withHistories out rsp) = .next (finish status value (u.withHistories out rsp))) :
    AppendsOnly f s :=
  ⟨finish status value (u.withHistories s.out s.rsp), [], [⟨status, value⟩], hf s.out s.rsp,
    (List.append_nil _).symm, rfl, fun out rsp => by rw [hf, List.append_nil]; rfl⟩

theorem fallingEdge_appendsOnly (update : Fin 10 → Fin 10) (s : State) :
    AppendsOnly (fun u => .next (fallingEdge update u)) s := by
  by_cases ha : accepted (sampleNow s) s.lastT = true
  · exact appendsOnly_of_silent (acceptEvent (update s.digit) (sampleNow s) s) fun _ _ => congrArg _ (if_pos ha)
  · exact appendsOnly_of_response .rejected 0 s fun _ _ => congrArg _ (if_neg ha)

theorem exec_appendsOnly (i : Instr) (s : State) : AppendsOnly (exec i) s := by
  cases i with
  | lookup d =>
    cases hd : digitOperand d with
    | none => exact appendsOnly_of_silent (raiseFault .fDigit s) fun _ _ => by simp only [exec, execLookup, hd]; rfl
    | some d' =>
      exact appendsOnly_of_response .done (gromRead s d') s fun _ _ => by simp only [exec, execLookup, hd]; rfl
  | clear => exact appendsOnly_of_response .done 0 (pbufWriteAll clearBuffer s) fun _ _ => rfl
  | setpx idx r g b =>
    cases hidx : indexOperand idx with
    | none => exact appendsOnly_of_silent (raiseFault .fIndex s) fun _ _ => by simp only [exec, execSetpx, hidx]; rfl
    | some j =>
      exact appendsOnly_of_response .done 0 (pbufWrite j ⟨r, g, b⟩ s) fun _ _ => by
        simp only [exec, execSetpx, hidx]; rfl
  | render pattern inten =>
    exact appendsOnly_of_response .done 0 (pbufWriteAll (renderBuffer pattern inten) s) fun _ _ => rfl
  | flushW => exact appendsOnly_of_silent (startFlush .packedWord s) fun _ _ => rfl
  | flushB => exact appendsOnly_of_silent (startFlush .byteTriplet s) fun _ _ => rfl
  | evtInc => exact fallingEdge_appendsOnly incDigit s
  | evtDec => exact fallingEdge_appendsOnly decDigit s
  | evtRise src => exact appendsOnly_of_response .ignored 0 s fun _ _ => rfl

theorem emitStep_appendsOnly (fmode : WireMode) (fi : Fin 25) (fp : Fin 3) (s : State) :
    AppendsOnly (fun u => .next (emitStep fmode fi fp u)) s := by
  unfold emitStep advanceFlush
  split
  · split
    · exact ⟨_, [_], [], rfl, rfl, (List.append_nil _).symm, fun _ _ => by rw [List.append_nil]; rfl⟩
    · exact ⟨_, [_], [_], rfl, rfl, rfl, fun _ _ => rfl⟩
  · exact ⟨_, [_], [], rfl, rfl, (List.append_nil _).symm, fun _ _ => by rw [List.append_nil]; rfl⟩

@[simp] theorem State.withHistories_seq (s : State) (out : List OutUnit) (rsp : List Response) :
    (s.withHistories out rsp).seq = s.seq := rfl

theorem advance_withHistories (s : State) (out : List OutUnit) (rsp : List Response) :
    (s.withHistories out rsp).advance = s.advance.withHistories out rsp := by
  simp only [State.advance, State.withHistories]
  cases s.inputs <;> rfl

/-- What answers as `f` does, whatever the histories. -/
theorem appendsOnly_congr {f g : State → Result} {s : State}
    (h : ∀ out rsp, g (s.withHistories out rsp) = f (s.withHistories out rsp)) (hf : AppendsOnly f s) :
    AppendsOnly g s := by
  obtain ⟨t, us, rs, ht, hout, hrsp, hother⟩ := hf
  exact ⟨t, us, rs, (h s.out s.rsp).trans ht, hout, hrsp, fun out rsp => (h out rsp).trans (hother out rsp)⟩

theorem takeRequest_appendsOnly (req : Request) (s : State) : AppendsOnly (takeRequest req) s := by
  cases hd : decode req with
  | ok i => exact appendsOnly_congr (fun _ _ => by simp only [takeRequest, hd]) (exec_appendsOnly i s)
  | error e => exact appendsOnly_of_silent (raiseFault .fReq s) fun _ _ => by simp only [takeRequest, hd]; rfl

/-- No step of the block reads the histories (R34). -/
theorem blockStep_appendsOnly (p : PortInputs) (s : State) : AppendsOnly (blockStep p) s := by
  cases hrst : p.rst with
  | true => exact appendsOnly_of_silent (resetRegisters s) fun _ _ => by simp only [blockStep, hrst, if_true]; rfl
  | false =>
    cases hseq : s.seq with
    | idle =>
      cases hreq : p.req with
      | none => exact appendsOnly_of_silent s fun _ _ => by simp [blockStep, hrst, hseq, hreq]
      | some req =>
        exact appendsOnly_congr (fun _ _ => by simp [blockStep, hrst, hseq, hreq]) (takeRequest_appendsOnly req s)
    | flush fmode fi fp =>
      cases hready : p.outReady with
      | true =>
        exact appendsOnly_congr (fun _ _ => by simp [blockStep, hrst, hseq, hready])
          (emitStep_appendsOnly fmode fi fp s)
      | false => exact appendsOnly_of_silent s fun _ _ => by simp [blockStep, hrst, hseq, hready]
    | fault code => exact appendsOnly_of_silent s fun _ _ => by simp [blockStep, hrst, hseq]

/-- Settles O55: the step of the block appends only, and the environment's move does not touch the histories. -/
theorem ghostHistoriesAreNotRead : Obligations.GhostHistoriesAreNotRead := by
  intro s t out rsp hstep
  obtain ⟨u, us, rs, hu, hout, hrsp, hother⟩ := blockStep_appendsOnly s.ports s
  have hu' : step (s.withHistories out rsp) = .next (u.advance.withHistories (out ++ us) (rsp ++ rs)) := by
    rw [← advance_withHistories]
    exact congrArg (onNext State.advance) (hother out rsp)
  have ht : step s = .next u.advance := congrArg (onNext State.advance) hu
  cases ht.symm.trans hstep
  exact ⟨_, hu', ⟨rfl, rfl, rfl⟩, ⟨rfl, rfl, rfl⟩, rfl, us, rs, (State.advance_out u).trans hout, rfl,
    (State.advance_rsp u).trans hrsp, rfl⟩

/-! ### The output is the frames in order -/

/-- The units the flush in progress has still to hand over: the rest of its frame (R98). -/
def State.owed (s : State) : List OutUnit :=
  match s.seq with
  | .flush fmode fi fp => (frame fmode s.pb).drop (framePosition fmode fi fp)
  | .idle | .fault _ => []

theorem owed_of_flush {s : State} {fmode : WireMode} {fi : Fin 25} {fp : Fin 3} (h : s.seq = .flush fmode fi fp) :
    s.owed = (frame fmode s.pb).drop (framePosition fmode fi fp) := by
  simp only [State.owed, h]

theorem owed_of_not_flushing {s : State} (h : ¬ s.Flushing) : s.owed = [] := by
  unfold State.owed
  split
  next hs => exact absurd ⟨_, _, _, hs⟩ h
  next => rfl
  next => rfl

theorem owed_advance (s : State) : s.advance.owed = s.owed := by
  simp only [State.owed, State.advance_seq, State.advance_pb]

/-- Only IDLE starts a flush. -/
theorem startsFlush_of_not_idle {s : State} (h : s.seq ≠ .idle) : s.startsFlush = none := by
  unfold State.startsFlush
  split
  next hidle _ => exact absurd hidle h
  next => rfl

/-- A step of IDLE that leaves no flush in progress started none. -/
theorem startsFlush_of_not_flushing {s t : State} (hstep : step s = .next t) (ht : ¬ t.Flushing) :
    s.startsFlush = none := by
  unfold State.startsFlush
  rw [hstep]
  split
  next hu =>
    cases hu
    split
    next hflush => exact absurd ⟨_, _, _, hflush⟩ ht
    next => rfl
    next => rfl
  next => rfl

/-- A step of IDLE into a flush started it, with the buffer it left (R95). -/
theorem startsFlush_of_idle {s t : State} {fmode : WireMode} {fi : Fin 25} {fp : Fin 3} (hs : s.seq = .idle)
    (hstep : step s = .next t) (ht : t.seq = .flush fmode fi fp) : s.startsFlush = some (fmode, t.pb) := by
  simp only [State.startsFlush, hs, hstep, ht]

/-- The frames of flushes, in their order. -/
def frames (flushes : List (WireMode × PixelBuffer)) : List OutUnit := flushes.flatMap fun f => frame f.1 f.2

theorem frames_append (fs gs : List (WireMode × PixelBuffer)) : frames (fs ++ gs) = frames fs ++ frames gs :=
  List.flatMap_append

theorem frames_singleton (fmode : WireMode) (pb : PixelBuffer) : frames [(fmode, pb)] = frame fmode pb :=
  List.flatMap_singleton _ _

/-- A step from IDLE hands over nothing; if it comes to a flush, that flush is at its first unit. -/
theorem idle_step {s t : State} (hs : s.seq = .idle) (hrst : s.ports.rst = false) (hstep : step s = .next t) :
    t.out = s.out ∧ (¬ t.Flushing ∨ ∃ fmode, t.seq = .flush fmode 0 0) := by
  obtain ⟨u, rfl, ho⟩ := step_cases hstep
  rw [State.advance_out, State.advance_seq, flushing_advance_iff]
  cases ho with
  | resets hrst' => simp [hrst] at hrst'
  | waits => exact ⟨rfl, .inl (not_flushing_of_idle hs)⟩
  | reserved => exact ⟨rfl, .inl (not_flushing_of_fault rfl)⟩
  | emits _ _ _ hemits => cases hs.symm.trans hemits.2.1
  | stalls _ _ _ _ hseq => cases hs.symm.trans hseq
  | stopped _ _ hseq => cases hs.symm.trans hseq
  | takes _ _ _ _ _ ho =>
    cases ho with
    | faults => exact ⟨rfl, .inl (not_flushing_of_fault rfl)⟩
    | responds | writes => exact ⟨rfl, .inl (not_flushing_of_idle rfl)⟩
    | flushes | accepts => exact ⟨rfl, .inr ⟨_, rfl⟩⟩

/-- A step of a flush hands over what it owes less. -/
theorem flush_step_owed {s t : State} {fmode : WireMode} {fi : Fin 25} {fp : Fin 3} (hs : s.seq = .flush fmode fi fp)
    (hrst : s.ports.rst = false) (hstep : step s = .next t) : t.out ++ t.owed = s.out ++ s.owed := by
  rw [owed_of_flush hs]
  rcases flush_step hs hrst hstep with ⟨-, ⟨hpb, -⟩, hout, hpos⟩ | ⟨-, hseq, ⟨hpb, -⟩, hout, -⟩
  · rw [hout, frame_drop_position, List.append_assoc, List.singleton_append]
    rcases hpos with ⟨fi', fp', hnext, -, hpos, -⟩ | ⟨hidle, hpos, -⟩
    · rw [owed_of_flush hnext, hpb, hpos]
    · rw [owed_of_not_flushing (not_flushing_of_idle hidle), hpos, frame_drop_length]
  · rw [owed_of_flush (hseq.trans hs), hpb, hout]

/-- Without reset, the units handed over and those still owed grow together by the frame of a flush that is started
(R50, R100). -/
theorem step_out_owed {s t : State} (hrst : s.ports.rst = false) (hstep : step s = .next t) :
    t.out ++ t.owed = s.out ++ s.owed ++ frames s.startsFlush.toList := by
  cases hs : s.seq with
  | idle =>
    obtain ⟨hout, ht⟩ := idle_step hs hrst hstep
    rw [owed_of_not_flushing (not_flushing_of_idle hs), hout, List.append_nil]
    rcases ht with ht | ⟨fmode, ht⟩
    · rw [startsFlush_of_not_flushing hstep ht, owed_of_not_flushing ht]
      rfl
    · rw [startsFlush_of_idle hs hstep ht, owed_of_flush ht, framePosition_start, List.drop_zero, Option.toList_some,
        frames_singleton]
  | flush fmode fi fp =>
    rw [flush_step_owed hs hrst hstep, startsFlush_of_not_idle (by simp [hs])]
    exact (List.append_nil _).symm
  | fault code =>
    cases (step_stopped hrst hs).symm.trans hstep
    rw [startsFlush_of_not_idle (by simp [hs]), owed_advance, State.advance_out]
    exact (List.append_nil _).symm

/-- The flush in progress, if there is one, is the last of the flushes started, and has its buffer. -/
def LastStarted (flushes : List (WireMode × PixelBuffer)) (t : State) : Prop :=
  ∀ fmode fi fp, t.seq = .flush fmode fi fp → ∃ ended, flushes = ended ++ [(fmode, t.pb)]

theorem lastStarted_step {s t : State} {flushes : List (WireMode × PixelBuffer)} (h : LastStarted flushes s)
    (hrst : s.ports.rst = false) (hstep : step s = .next t) :
    LastStarted (flushes ++ s.startsFlush.toList) t := by
  intro fmode fi fp ht
  cases hs : s.seq with
  | idle => exact ⟨flushes, by rw [startsFlush_of_idle hs hstep ht, Option.toList_some]⟩
  | flush fmode' fi' fp' =>
    rw [startsFlush_of_not_idle (by simp [hs]), Option.toList_none, List.append_nil]
    obtain ⟨ended, hended⟩ := h _ _ _ hs
    refine ⟨ended, ?_⟩
    rcases flush_step hs hrst hstep with ⟨-, ⟨hpb, -⟩, -, hpos⟩ | ⟨-, hseq, ⟨hpb, -⟩, -, -⟩
    · rcases hpos with ⟨_, _, hnext, -⟩ | ⟨hidle, -⟩
      · cases hnext.symm.trans ht
        rw [hpb, hended]
      · cases hidle.symm.trans ht
    · cases (hseq.trans hs).symm.trans ht
      rw [hpb, hended]
  | fault code =>
    cases (step_stopped hrst hs).symm.trans hstep
    rw [State.advance_seq, hs] at ht
    cases ht

/-- The two facts of a run from IDLE, by induction on the number of steps, the last step split off. -/
theorem run_out_owed (n : Nat) : ∀ {s t : State}, s.seq = .idle → NoReset s n → run n s = .next t →
    t.out ++ t.owed = s.out ++ frames (flushesStarted n s) ∧ LastStarted (flushesStarted n s) t := by
  induction n with
  | zero =>
    intro s t hs _ hrun
    cases hrun
    rw [owed_of_not_flushing (not_flushing_of_idle hs)]
    exact ⟨rfl, fun _ _ _ h => absurd ⟨_, _, _, h⟩ (not_flushing_of_idle hs)⟩
  | succ n ih =>
    intro s t hs hreset hrun
    obtain ⟨u, hu⟩ := everyRunGoesOn n s
    have hstep : step u = .next t := (run_succ_last n hu).symm.trans hrun
    have hrst : u.ports.rst = false := by rw [ports_run n hu]; exact hreset n (by omega)
    obtain ⟨hout, hlast⟩ := ih hs (fun k hk => hreset k (by omega)) hu
    rw [flushesStarted_succ n hu, step_out_owed hrst hstep, hout, frames_append, List.append_assoc]
    exact ⟨rfl, lastStarted_step hlast hrst hstep⟩

/-- Settles O56: outside a flush nothing is owed; in a flush the last frame is cut at the position into the units
handed over and those owed. -/
theorem outputIsFramesInOrder : Obligations.OutputIsFramesInOrder := by
  intro n s t hs hreset hrun
  obtain ⟨hout, hlast⟩ := run_out_owed n hs hreset hrun
  constructor
  · intro ht
    rw [owed_of_not_flushing ht, List.append_nil] at hout
    exact hout
  · intro fmode fi fp ht
    obtain ⟨ended, hended⟩ := hlast fmode fi fp ht
    refine ⟨ended, hended, List.append_cancel_right (bs := t.owed) ?_⟩
    rw [hout, hended, frames_append, frames_singleton, owed_of_flush ht, List.append_assoc, List.take_append_drop,
      ← List.append_assoc]
    rfl

end Sys2Proof.Machine
end
